-- ==== Sys2Proof/Word.lean ====
section
/-! DEFINITION. The data types of the core: bytes, 4-byte words, 16-byte blocks, the 4 x 4 state matrix and the
expanded key schedule (00_scope.md R7, R9 to R12). Types and plain element access only: what a rule computes with
them stands under Sys2Proof/Machine/. -/

namespace Sys2Proof

/-- An 8-bit unsigned value, bit 7 its most significant (R9). -/
abbrev Byte := BitVec 8

/-- The 4-byte word `[t0, t1, t2, t3]` of 42_key_expansion.md, also one column of a state (R11). -/
abbrev Word := Vector Byte 4

/-- A block is a sequence of 16 bytes `b[0] .. b[15]` (R10). -/
abbrev Block := Vector Byte 16

/-- The expanded key schedule: 11 round keys of 16 bytes, 176 bytes in all (R7, R12). Round key block `k` is
`W[16k] .. W[16k+15]`. -/
abbrev Schedule := Vector Block 11

/-- The state: a 4 x 4 matrix of bytes `s[r][c]`, held row by row (R11). -/
structure Mat where
  /-- `rows[r][c]` is `s[r][c]`. -/
  rows : Vector (Vector Byte 4) 4
  deriving DecidableEq, Repr, Inhabited

namespace Mat

/-- The element `s[r][c]` (R11). -/
def entry (s : Mat) (r c : Fin 4) : Byte := (s.rows.get r).get c

/-- The matrix whose element in row `r` and column `c` is `f r c`. -/
def build (f : Fin 4 → Fin 4 → Byte) : Mat := ⟨Vector.ofFn fun r => Vector.ofFn fun c => f r c⟩

end Mat

/-- The block of 16 zero bytes. -/
def Block.zero : Block := Vector.replicate 16 0#8

/-- The matrix of 16 zero bytes. -/
def Mat.zero : Mat := Mat.build fun _ _ => 0#8

/-- The schedule of 176 zero bytes. -/
def Schedule.zero : Schedule := Vector.replicate 11 Block.zero

/-- Byte `W[n]` of a schedule, by its index among the 176 (R12). -/
def Schedule.byte (w : Schedule) (n : Fin 176) : Byte :=
  (w.get ⟨n.val / 16, by omega⟩).get ⟨n.val % 16, by omega⟩

end Sys2Proof
end

