-- ==== Sys2Proof/Config.lean ====
section
/-! DEFINITION. What the platform or an implementation fixes and the spec leaves open: the base address of the register
window (00_scope.md R8) and the FREE VALUES of the hidden registers whose contents the spec calls unspecified
(10_state.md R43, R44; 70_reset_and_hazards.md R280). An opaque constant has no body, so no proof can see its value:
what is proved holds for every value. -/

namespace Sys2Proof

/-- Which operation the core was started for: the content of `HID.OPSEL` (10_state.md R43). -/
inductive OpSel where
  /-- ENCRYPT. -/
  | enc
  /-- DECRYPT. -/
  | dec
  deriving DecidableEq, Repr, Inhabited

/-- A round index in 0..10 (10_state.md R44, `HID.ROUND`). -/
abbrev RoundIndex := Fin 11

/-- The index of a micro-op in a micro-program of 53 (10_state.md R44, `HID.UPC`; 43_cipher.md R220, R221). -/
abbrev UopIndex := Fin 53

namespace Config

/-- `AES_BASE`: the platform address of offset 0x00 of the register window, any address the platform assigns
(00_scope.md R8; 92_eei_decisions.md D2). -/
opaque aesBase : Nat

/-! The free values. Each is applied to `State.freeIdx`, which moves on at every use, so that no two uses are known to
be equal (assumption log 2). -/

/-- An unspecified content of `HID.OPSEL` (R43). -/
opaque freeOpsel : Nat → OpSel
/-- An unspecified content of `HID.SIN` (R43). -/
opaque freeSin : Nat → Block
/-- An unspecified content of `HID.SKEY` (R43). -/
opaque freeSkey : Nat → Block
/-- An unspecified content of `HID.S` (R44). -/
opaque freeMat : Nat → Mat
/-- An unspecified content of `HID.W` (R44). -/
opaque freeSched : Nat → Schedule
/-- An unspecified content of `HID.ROUND` (R44). -/
opaque freeRound : Nat → RoundIndex
/-- An unspecified content of `HID.UPC` (R44). -/
opaque freeUpc : Nat → UopIndex

end Config

end Sys2Proof
end

