-- ==== Sys2Proof/Syntax.lean ====
section
/-! DEFINITION. The instructions: one constructor per row of spec/opcode_table.json, that is the two host commands
(CMD8, 30_encoding.md R103, R104) and the ten micro-ops of the reference sequencer (UOP8, R110, R111). -/

namespace Sys2Proof

/-- The instructions of the opcode table. A command carries its three presence bits, 1 = present (R103, R105);
KEXP and ARK carry the field `RND` as encoded, a round index in 0..10 (R110, R111). -/
inductive Instr where
  /-- ENCRYPT, with `IN_P`, `KEY_P`, `OUT_P` (44_commands.md R236). -/
  | encrypt (inP keyP outP : Bool)
  /-- DECRYPT, with `IN_P`, `KEY_P`, `OUT_P` (44_commands.md R237). -/
  | decrypt (inP keyP outP : Bool)
  /-- LOADS: state load (43_cipher.md R210). -/
  | loads
  /-- KEXP k: key schedule expander (43_cipher.md R211). -/
  | kexp (k : BitVec 4)
  /-- ARK k: round-key adder (43_cipher.md R212). -/
  | ark (k : BitVec 4)
  /-- SB: byte substituter, forward (43_cipher.md R213). -/
  | sb
  /-- ISB: byte substituter, inverse (43_cipher.md R214). -/
  | isb
  /-- SR: row shifter, forward (43_cipher.md R215). -/
  | sr
  /-- ISR: row shifter, inverse (43_cipher.md R216). -/
  | isr
  /-- MC: column mixer, forward (43_cipher.md R217). -/
  | mc
  /-- IMC: column mixer, inverse (43_cipher.md R218). -/
  | imc
  /-- STORE: state store and completion (43_cipher.md R219). -/
  | store
  deriving DecidableEq, Repr, Inhabited

end Sys2Proof
end

