-- ==== Sys2Proof/WellFormed.lean ====
section
/-! DEFINITION. Which instruction terms the encoding can express (30_encoding.md R111, R112): the round index of KEXP
and ARK is in 0..10; every other term is well formed. -/

namespace Sys2Proof

/-- A value of the field `RND` that names a round: 0..10 (R111); 11..15 are reserved (R112). -/
def isRoundIndex (k : BitVec 4) : Bool := decide (k.toNat ≤ 10)

/-- The instruction is one the encoding has a word for. -/
def Instr.wellFormed : Instr → Bool
  | .encrypt _ _ _ => true
  | .decrypt _ _ _ => true
  | .loads => true
  | .kexp k => isRoundIndex k
  | .ark k => isRoundIndex k
  | .sb => true
  | .isb => true
  | .sr => true
  | .isr => true
  | .mc => true
  | .imc => true
  | .store => true

/-- The instruction is a host command, a byte written to CMD (30_encoding.md R102); the others are micro-ops. -/
def Instr.isCommand : Instr → Bool
  | .encrypt _ _ _ => true
  | .decrypt _ _ _ => true
  | .loads => false
  | .kexp _ => false
  | .ark _ => false
  | .sb => false
  | .isb => false
  | .sr => false
  | .isr => false
  | .mc => false
  | .imc => false
  | .store => false

end Sys2Proof
end

