-- ==== Sys2Proof/Decode.lean ====
section
/-! DEFINITION. The decoder and, after it, the encoder (30_encoding.md). Two kinds of byte are decoded: a byte written
to CMD (R103 to R108) and a micro-op word of the reference sequencer (R110 to R112). No byte is a valid word of both
kinds, so one decoder reads both (assumption log 9). -/

namespace Sys2Proof

/-! ## Decoding -/

/-- Why a byte is no instruction. -/
inductive Reject where
  /-- A command byte with `RSV != 000` or a reserved `OP` (R106). -/
  | illegalCommand (v : Byte)
  /-- A reserved micro-op word (R112). -/
  | reservedMicroOp (w : Byte)
  /-- A byte that is neither a command nor a micro-op word. -/
  | noInstruction (b : Byte)
  /-- There is no byte to decode. -/
  | noBytes
  deriving DecidableEq, Repr

/-- The fields of a command byte (R103). -/
def cmdOp (v : Byte) : BitVec 2 := v.extractLsb' 0 2
def cmdInP (v : Byte) : Bool := v.getLsbD 2
def cmdKeyP (v : Byte) : Bool := v.getLsbD 3
def cmdOutP (v : Byte) : Bool := v.getLsbD 4
def cmdRsv (v : Byte) : BitVec 3 := v.extractLsb' 5 3

/-- The command a byte written to CMD names, its presence bits as they are (R104, R106, R107). -/
def decodeCommand (v : Byte) : Except Reject Instr :=
  if cmdRsv v ≠ 0b000#3 then .error (.illegalCommand v)
  else if cmdOp v = 0b01#2 then .ok (.encrypt (cmdInP v) (cmdKeyP v) (cmdOutP v))
  else if cmdOp v = 0b10#2 then .ok (.decrypt (cmdInP v) (cmdKeyP v) (cmdOutP v))
  else .error (.illegalCommand v)

/-- The fields of a micro-op word (R110). -/
def uopCode (w : Byte) : BitVec 4 := w.extractLsb' 4 4
def uopRnd (w : Byte) : BitVec 4 := w.extractLsb' 0 4

/-- A micro-op without a round index: its `RND` is 0 (R110, R112). -/
def plainUop (w : Byte) (i : Instr) : Except Reject Instr :=
  if uopRnd w = 0#4 then .ok i else .error (.reservedMicroOp w)

/-- A micro-op with a round index in 0..10 (R111, R112). -/
def roundUop (w : Byte) (i : BitVec 4 → Instr) : Except Reject Instr :=
  if isRoundIndex (uopRnd w) then .ok (i (uopRnd w)) else .error (.reservedMicroOp w)

/-- The micro-op a word names (R111); the reserved words are rejected (R112). -/
def decodeUop (w : Byte) : Except Reject Instr :=
  if uopCode w = 0x1#4 then plainUop w .loads
  else if uopCode w = 0x2#4 then roundUop w .kexp
  else if uopCode w = 0x3#4 then roundUop w .ark
  else if uopCode w = 0x4#4 then plainUop w .sb
  else if uopCode w = 0x5#4 then plainUop w .isb
  else if uopCode w = 0x6#4 then plainUop w .sr
  else if uopCode w = 0x7#4 then plainUop w .isr
  else if uopCode w = 0x8#4 then plainUop w .mc
  else if uopCode w = 0x9#4 then plainUop w .imc
  else if uopCode w = 0xA#4 then plainUop w .store
  else .error (.reservedMicroOp w)

/-- The instruction of the opcode table a byte names: a command, else a micro-op. -/
def decodeByte (b : Byte) : Except Reject Instr :=
  match decodeCommand b with
  | .ok i => .ok i
  | .error _ =>
    match decodeUop b with
    | .ok i => .ok i
    | .error _ => .error (.noInstruction b)

/-- Decode the first instruction of a list of bytes and give the rest: every instruction is one byte (R102, R110). -/
def decode : List Byte → Except Reject (Instr × List Byte)
  | [] => .error .noBytes
  | b :: rest =>
    match decodeByte b with
    | .ok i => .ok (i, rest)
    | .error r => .error r

/-- The first byte of an instruction whose low `nbits` bits are those of `w`, the bits above them 0. -/
def firstByte (nbits w : Nat) : Byte := BitVec.ofNat 8 (w % 2 ^ nbits)

/-- The instruction the decoder reads from the table's bits, bit 0 the least significant of the first byte. -/
def decodeTableWord (nbits w : Nat) : Option Instr :=
  match decode [firstByte nbits w] with
  | .ok (i, _) => some i
  | .error _ => none

/-! ## The classes of a command byte -/

/-- What R107's `decode(v)` returns. -/
inductive Decoded where
  /-- The byte names no operation: ILLEGAL_COMMAND. -/
  | illegal
  /-- The operation is named and a buffer is absent: INVALID_ARGUMENT. -/
  | absent (op : OpSel)
  /-- The operation runs. -/
  | run (op : OpSel)
  deriving DecidableEq, Repr

/-- Every buffer of the command is present (R105, R107). -/
def allPresent (inP keyP outP : Bool) : Bool := inP && keyP && outP

/-- The class of a command: it runs when every buffer is present (R107). -/
def classOf (op : OpSel) (inP keyP outP : Bool) : Decoded :=
  if allPresent inP keyP outP then .run op else .absent op

/-- The class of a byte written to CMD (R107, R108), read from the decoded command. -/
def commandClass (v : Byte) : Decoded :=
  match decodeCommand v with
  | .ok (.encrypt i k o) => classOf .enc i k o
  | .ok (.decrypt i k o) => classOf .dec i k o
  | _ => .illegal

/-! ## Encoding -/

/-- A command byte `{RSV = 000, OUT_P, KEY_P, IN_P, OP}` (R103). -/
def commandByte (op : BitVec 2) (inP keyP outP : Bool) : Byte :=
  0b000#3 ++ BitVec.ofBool outP ++ BitVec.ofBool keyP ++ BitVec.ofBool inP ++ op

/-- A micro-op word `{UOP, RND}` (R110, R115). -/
def uopWord (code rnd : BitVec 4) : Byte := code ++ rnd

/-- The byte of an instruction (R103, R104, R111). -/
def encodeByte : Instr → Byte
  | .encrypt i k o => commandByte 0b01#2 i k o
  | .decrypt i k o => commandByte 0b10#2 i k o
  | .loads => uopWord 0x1#4 0#4
  | .kexp k => uopWord 0x2#4 k
  | .ark k => uopWord 0x3#4 k
  | .sb => uopWord 0x4#4 0#4
  | .isb => uopWord 0x5#4 0#4
  | .sr => uopWord 0x6#4 0#4
  | .isr => uopWord 0x7#4 0#4
  | .mc => uopWord 0x8#4 0#4
  | .imc => uopWord 0x9#4 0#4
  | .store => uopWord 0xA#4 0#4

/-- The bytes of an instruction: one (R102, R110). -/
def encode (i : Instr) : List Byte := [encodeByte i]

/-! ## The rows of spec/opcode_table.json -/

/-- A row of the opcode table: the bits of `mask` are those the row fixes, `pattern` their values. -/
structure OpcodeRow where
  pattern : Byte
  mask : Byte
  deriving DecidableEq, Repr

/-- The row a constructor stands for, copied from the table's `match` and `mask`. -/
def Instr.row : Instr → OpcodeRow
  | .encrypt _ _ _ => ⟨0x01, 0xE3⟩
  | .decrypt _ _ _ => ⟨0x02, 0xE3⟩
  | .loads => ⟨0x10, 0xFF⟩
  | .kexp _ => ⟨0x20, 0xF0⟩
  | .ark _ => ⟨0x30, 0xF0⟩
  | .sb => ⟨0x40, 0xFF⟩
  | .isb => ⟨0x50, 0xFF⟩
  | .sr => ⟨0x60, 0xFF⟩
  | .isr => ⟨0x70, 0xFF⟩
  | .mc => ⟨0x80, 0xFF⟩
  | .imc => ⟨0x90, 0xFF⟩
  | .store => ⟨0xA0, 0xFF⟩

/-- The twelve rows, in the table's order. -/
def opcodeRows : List OpcodeRow :=
  [⟨0x01, 0xE3⟩, ⟨0x02, 0xE3⟩, ⟨0x10, 0xFF⟩, ⟨0x20, 0xF0⟩, ⟨0x30, 0xF0⟩, ⟨0x40, 0xFF⟩] ++
  [⟨0x50, 0xFF⟩, ⟨0x60, 0xFF⟩, ⟨0x70, 0xFF⟩, ⟨0x80, 0xFF⟩, ⟨0x90, 0xFF⟩, ⟨0xA0, 0xFF⟩]

/-- Byte `b` carries the bits the row fixes. -/
def OpcodeRow.admits (r : OpcodeRow) (b : Byte) : Bool := b &&& r.mask == r.pattern

end Sys2Proof
end

