-- ==== Sys2Proof/Machine/Transforms.lean ====
section
/-! DEFINITION. GF(2^8) arithmetic and the state transforms (00_scope.md R11, R12; 41_transforms.md R150 to R159). Each
is a pure function; none writes a flag or raises an error. -/

namespace Sys2Proof.Machine

/-! ## GF(2^8) -/

/-- Multiplication by 2: the shift left taken modulo 256, reduced by 0x1B when bit 7 was set (R150). -/
def xtime (x : Byte) : Byte := (x <<< 1) ^^^ (if x.getLsbD 7 then 0x1B#8 else 0x00#8)

/-- The products by the constants the core uses (R151). -/
def mul2 (x : Byte) : Byte := xtime x
def mul3 (x : Byte) : Byte := xtime x ^^^ x
def mul9 (x : Byte) : Byte := xtime (xtime (xtime x)) ^^^ x
def mul11 (x : Byte) : Byte := xtime (xtime (xtime x)) ^^^ xtime x ^^^ x
def mul13 (x : Byte) : Byte := xtime (xtime (xtime x)) ^^^ xtime (xtime x) ^^^ x
def mul14 (x : Byte) : Byte := xtime (xtime (xtime x)) ^^^ xtime (xtime x) ^^^ xtime x

/-! ## Blocks and states -/

/-- `load(b)`: `s[r][c] = b[r + 4c]` (R11). -/
def load (b : Block) : Mat := Mat.build fun r c => b.get ⟨r.val + 4 * c.val, by omega⟩

/-- `store(s)`: `b[i] = s[i mod 4][i div 4]` (R11). -/
def store (s : Mat) : Block := Vector.ofFn fun i => s.entry ⟨i.val % 4, by omega⟩ ⟨i.val / 4, by omega⟩

/-- `RK(k)`: round key `k` of a schedule, laid out like the state (R12). -/
def roundKey (w : Schedule) (k : RoundIndex) : Mat := load (w.get k)

/-- Column `c` of a state, a 4-byte word (R11). -/
def column (s : Mat) (c : Fin 4) : Word := Vector.ofFn fun r => s.entry r c

/-! ## The transforms -/

/-- AddRoundKey (R153). -/
def addRoundKey (s k : Mat) : Mat := Mat.build fun r c => s.entry r c ^^^ k.entry r c

/-- SubBytes (R154). -/
def subBytes (s : Mat) : Mat := Mat.build fun r c => sbox (s.entry r c)

/-- InvSubBytes (R155). -/
def invSubBytes (s : Mat) : Mat := Mat.build fun r c => invSbox (s.entry r c)

/-- ShiftRows: row `r` rotated left by `r`; `c + r` is taken modulo 4 (R156). -/
def shiftRows (s : Mat) : Mat := Mat.build fun r c => s.entry r (c + r)

/-- InvShiftRows: row `r` rotated right by `r`; `c - r` is taken modulo 4 (R157). -/
def invShiftRows (s : Mat) : Mat := Mat.build fun r c => s.entry r (c - r)

/-- The column mixer on one column, forward (R158, R163). -/
def mixColumn (a : Word) : Word :=
  #v[mul2 a[0] ^^^ mul3 a[1] ^^^ a[2] ^^^ a[3],
     a[0] ^^^ mul2 a[1] ^^^ mul3 a[2] ^^^ a[3],
     a[0] ^^^ a[1] ^^^ mul2 a[2] ^^^ mul3 a[3],
     mul3 a[0] ^^^ a[1] ^^^ a[2] ^^^ mul2 a[3]]

/-- The column mixer on one column, inverse (R159, R163). -/
def invMixColumn (a : Word) : Word :=
  #v[mul14 a[0] ^^^ mul11 a[1] ^^^ mul13 a[2] ^^^ mul9 a[3],
     mul9 a[0] ^^^ mul14 a[1] ^^^ mul11 a[2] ^^^ mul13 a[3],
     mul13 a[0] ^^^ mul9 a[1] ^^^ mul14 a[2] ^^^ mul11 a[3],
     mul11 a[0] ^^^ mul13 a[1] ^^^ mul9 a[2] ^^^ mul14 a[3]]

/-- MixColumns: the mixer applied to the four columns (R158). -/
def mixColumns (s : Mat) : Mat := Mat.build fun r c => (mixColumn (column s c)).get r

/-- InvMixColumns: the inverse mixer applied to the four columns (R159). -/
def invMixColumns (s : Mat) : Mat := Mat.build fun r c => (invMixColumn (column s c)).get r

end Sys2Proof.Machine
end

