-- ==== Sys2Proof/Machine/KeyExpansion.lean ====
section
/-! DEFINITION. The key schedule expander (42_key_expansion.md R180 to R186). One round of it is the body of the loop of
R183; KEXP runs that body for one round key, and `keyExpansion` runs it for all eleven. -/

namespace Sys2Proof.Machine

/-- RotWord: `[t0,t1,t2,t3] -> [t1,t2,t3,t0]` (R180). -/
def rotWord (t : Word) : Word := #v[t[1], t[2], t[3], t[0]]

/-- SubWord: each byte through the forward S-box (R181). -/
def subWord (t : Word) : Word := #v[sbox t[0], sbox t[1], sbox t[2], sbox t[3]]

/-- Round-constant addition in round `j + 1`: byte 0 takes `RCON[j]` (R182). -/
def addRcon (j : Fin 10) (t : Word) : Word := #v[t[0] ^^^ rcon.get j, t[1], t[2], t[3]]

/-- The bytewise XOR of two words. -/
def xorWord (a b : Word) : Word := #v[a[0] ^^^ b[0], a[1] ^^^ b[1], a[2] ^^^ b[2], a[3] ^^^ b[3]]

/-- Byte group `g` of a round key: bytes `4g .. 4g+3` (42_key_expansion.md, introduction). -/
def group (p : Block) (g : Fin 4) : Word := Vector.ofFn fun t => p.get ⟨4 * g.val + t.val, by omega⟩

/-- The round key whose four byte groups are the given words. -/
def ofGroups (g0 g1 g2 g3 : Word) : Block :=
  #v[g0[0], g0[1], g0[2], g0[3], g1[0], g1[1], g1[2], g1[3],
     g2[0], g2[1], g2[2], g2[3], g3[0], g3[1], g3[2], g3[3]]

/-- Round key `i = j + 1` from round key `i - 1 = j`: steps 1 to 6 of the loop of R183. Groups 1 to 3 are chained: each is
XORed with the group just computed (R184). -/
def nextRoundKey (j : Fin 10) (p : Block) : Block :=
  let temp := addRcon j (subWord (rotWord (group p 3)))
  let g0 := xorWord (group p 0) temp
  let g1 := xorWord (group p 1) g0
  let g2 := xorWord (group p 2) g1
  let g3 := xorWord (group p 3) g2
  ofGroups g0 g1 g2 g3

/-- KEXP k on a schedule: round key 0 is the key verbatim, round key `k >= 1` is computed from round key `k - 1` as the
schedule holds it (43_cipher.md R211). -/
def expandInto (k : RoundIndex) (key : Block) (w : Schedule) : Schedule :=
  if h : k.val = 0 then w.set 0 key
  else w.set k.val (nextRoundKey ⟨k.val - 1, by omega⟩ (w.get ⟨k.val - 1, by omega⟩))

/-- The round indices in expansion order. -/
def allRounds : List RoundIndex := [0, 1, 2, 3, 4, 5, 6, 7, 8, 9, 10]

/-- KeyExpansion(key): the whole schedule, round keys 0 to 10 in order (R183). -/
def keyExpansion (key : Block) : Schedule := allRounds.foldl (fun w k => expandInto k key w) Schedule.zero

end Sys2Proof.Machine
end

