-- ==== Sys2Proof/Machine/Cipher.lean ====
section
/-! DEFINITION. The two block functions of the core (43_cipher.md R201, R205, R206): pure and total (R209). -/

namespace Sys2Proof.Machine

/-- EncRound(s, k) (R201). -/
def encRound (s k : Mat) : Mat := addRoundKey (mixColumns (shiftRows (subBytes s))) k

/-- EncFinal(s, k): no MixColumns (R201). -/
def encFinal (s k : Mat) : Mat := addRoundKey (shiftRows (subBytes s)) k

/-- DecRound(s, k): InvMixColumns after AddRoundKey (R201). -/
def decRound (s k : Mat) : Mat := invMixColumns (addRoundKey (invSubBytes (invShiftRows s)) k)

/-- DecFinal(s, k): no InvMixColumns (R201). -/
def decFinal (s k : Mat) : Mat := addRoundKey (invSubBytes (invShiftRows s)) k

/-- The rounds 1 to 9 of R205. -/
def middleRounds : List RoundIndex := [1, 2, 3, 4, 5, 6, 7, 8, 9]

/-- Cipher(in, key), block encrypt (R205). -/
def cipher (input key : Block) : Block :=
  let w := keyExpansion key
  let s := addRoundKey (load input) (roundKey w 0)
  let s := middleRounds.foldl (fun s r => encRound s (roundKey w r)) s
  store (encFinal s (roundKey w 10))

/-- InvCipher(in, key), block decrypt: rounds 9 down to 1 (R206). -/
def invCipher (input key : Block) : Block :=
  let w := keyExpansion key
  let s := addRoundKey (load input) (roundKey w 10)
  let s := middleRounds.reverse.foldl (fun s r => decRound s (roundKey w r)) s
  store (decFinal s (roundKey w 0))

end Sys2Proof.Machine
end

