-- ==== Sys2Proof/Machine/State.lean ====
section
/-! DEFINITION. The state of the machine: every register the spec names (10_state.md R32 to R44), and beside them what the
outside world has still to do to the core and what it has read back (20_memory.md R83; 44_commands.md R240). -/

namespace Sys2Proof.Machine

/-! ## What the outside world does -/

/-- A transfer on the core's slave port (30_encoding.md R101): `off` is the 6-bit window offset, `data` one byte. -/
inductive Transfer where
  /-- `Read(off)`: `we = 0`. -/
  | read (off : BitVec 6)
  /-- `Write(off, data)`: `we = 1`. -/
  | write (off : BitVec 6) (data : Byte)
  deriving DecidableEq, Repr

/-- A host access as the platform sees it (00_scope.md R13): an address, a width in bytes and, for a write, the data.
An access that is not one byte wide is refused before its data is looked at, so one byte of data is held. -/
inductive Access where
  /-- `MemRead(addr, width)`. -/
  | memRead (addr width : Nat)
  /-- `MemWrite(addr, width, v)`. -/
  | memWrite (addr width : Nat) (v : Byte)
  deriving DecidableEq, Repr

/-- One atomic step of one agent (44_commands.md R240). An execution is an interleaving of these (20_memory.md R83). -/
inductive Turn where
  /-- The host's transfer reaches the port (HostRead, HostWrite). -/
  | transfer (t : Transfer)
  /-- The host makes an access at a platform address. -/
  | access (a : Access)
  /-- The core runs the next micro-op of its micro-program (43_cipher.md R220, R221). -/
  | microOp
  /-- The core takes its completion step at once, whatever its internal sequencing (Complete, R234). -/
  | completion
  /-- The reset input acts (Reset, 70_reset_and_hazards.md R280). -/
  | reset
  deriving DecidableEq, Repr

/-! ## The state -/

/-- The state of the core and of its surroundings. A field's comment names its rule; reset values stand in
`State.reset`. -/
structure State where
  /-- DIN, the data-input register (R33). -/
  din : Block
  /-- KEY, the cipher-key register (R34). -/
  key : Block
  /-- DOUT, the data-output register (R35). -/
  dout : Block
  /-- STATUS.BUSY (R37, R38). -/
  busy : Bool
  /-- STATUS.DONE (R37, R39). -/
  done : Bool
  /-- STATUS.ERR (R37, R40). -/
  err : Bool
  /-- ERR_CAUSE (R42). -/
  errCause : Byte
  /-- `HID.OPSEL`, the operation accepted (R43). -/
  hidOpsel : OpSel
  /-- `HID.SIN`, the copy of DIN taken at acceptance (R43). -/
  hidSin : Block
  /-- `HID.SKEY`, the copy of KEY taken at acceptance (R43). -/
  hidSkey : Block
  /-- `HID.S`, the state matrix (R44). -/
  hidS : Mat
  /-- `HID.W`, the expanded key schedule (R44). -/
  hidW : Schedule
  /-- `HID.ROUND`, a round index (R44). -/
  hidRound : RoundIndex
  /-- `HID.UPC`, the index of the next micro-op of the running micro-program (R44). -/
  hidUpc : UopIndex
  /-- THE MODEL'S OWN: the turns the agents have still to take, in their one total order (R83). -/
  turns : List Turn
  /-- THE MODEL'S OWN: the bytes host reads have returned, the latest first (R75). -/
  returned : List Byte
  /-- THE MODEL'S OWN: how many free values have been used (assumption log 2). -/
  freeIdx : Nat
  deriving DecidableEq, Repr

/-! ## Why a step can stop -/

/-- The reasons a run of the model faults. -/
inductive Fault where
  /-- A reserved micro-op word was to be executed (30_encoding.md R112; 60_exceptions.md R259). Raised by `runUopWord` and
  by KEXP and ARK with a round index above 10. SAFE: the spec's own model-level fault, and no micro-program reaches it. -/
  | reservedMicroOp (w : Byte)
  deriving DecidableEq, Repr

/-- The reasons a step is refused. -/
inductive Refusal where
  /-- An instruction without a meaning in this model. Raised by no arm: every row of the table has its meaning. SAFE. -/
  | notModelled (mnemonic : String)
  /-- A host access that is not exactly one byte wide (20_memory.md R72). Raised by `platformAccess`. SAFE: the spec
  refuses it. -/
  | accessWidth (width : Nat)
  /-- A host access at an address outside the register window (20_memory.md R74). Raised by `platformAccess`. SAFE: the
  spec refuses it. -/
  | outsideWindow (addr : Nat)
  deriving DecidableEq, Repr

/-- What a step of this machine answers. -/
abbrev Result := Host.Outcome State Fault Refusal

/-! ## Reset -/

/-- The machine right after reset (70_reset_and_hazards.md R280): DIN, KEY, DOUT, STATUS and ERR_CAUSE are zero. The hidden
registers are unspecified after reset; the values below are a DESIGN CHOICE (assumption log 1). No turn is pending
(assumption log 3). -/
def State.reset : State where
  din := Block.zero
  key := Block.zero
  dout := Block.zero
  busy := false
  done := false
  err := false
  errCause := 0x00#8
  hidOpsel := .enc
  hidSin := Block.zero
  hidSkey := Block.zero
  hidS := Mat.zero
  hidW := Schedule.zero
  hidRound := 0
  hidUpc := 0
  turns := []
  returned := []
  freeIdx := 0

end Sys2Proof.Machine
end

