-- ==== Sys2Proof/Machine/Flags.lean ====
section
/-! DEFINITION. The flags of the core: the three STATUS bits and the error code (10_state.md R37 to R42, R46). No other flag
exists and no transform writes one. -/

namespace Sys2Proof.Machine

/-- What a host reads at STATUS: `{0b00000, ERR, DONE, BUSY}` (R37; 20_memory.md R75). -/
def statusByte (s : State) : Byte :=
  0b00000#5 ++ BitVec.ofBool s.err ++ BitVec.ofBool s.done ++ BitVec.ofBool s.busy

/-- ERR_CAUSE code NONE (R42). -/
def causeNone : Byte := 0x00#8
/-- ERR_CAUSE code INVALID_ARGUMENT (60_exceptions.md R250). -/
def causeInvalidArgument : Byte := 0x01#8
/-- ERR_CAUSE code ILLEGAL_COMMAND (60_exceptions.md R251). -/
def causeIllegalCommand : Byte := 0x02#8

/-- Acceptance of a command clears the previous report (R39, R40, R42; 44_commands.md R230). -/
def clearReport (s : State) : State := { s with done := false, err := false, errCause := causeNone }

/-- A command starts: BUSY is set (R38). -/
def setBusy (s : State) : State := { s with busy := true }

/-- A command completes: BUSY falls and DONE rises together (R38, R39; 44_commands.md R234). -/
def setDone (s : State) : State := { s with busy := false, done := true }

end Sys2Proof.Machine
end

