-- ==== Sys2Proof/Machine/Operands.lean ====
section
/-! DEFINITION. The operands of the instructions (30_encoding.md R105; 44_commands.md R231; 43_cipher.md R211, R212) and the
registers as the host addresses them (10_state.md R32; 20_memory.md R75 to R77). -/

namespace Sys2Proof.Machine

/-! ## Commands: the operands are DIN and KEY at acceptance -/

/-- Operand capture: DIN and KEY are copied to the hidden registers (44_commands.md R231, R232). -/
def captureOperands (op : OpSel) (s : State) : State :=
  { s with hidOpsel := op, hidSin := s.din, hidSkey := s.key }

/-! ## Micro-ops: the field RND -/

/-- The round index a field `RND` names, if it names one (30_encoding.md R111, R112). -/
def roundOperand (k : BitVec 4) : Option RoundIndex :=
  if h : k.toNat < 11 then some ⟨k.toNat, h⟩ else none

/-! ## The register window, one byte at an offset -/

/-- The byte a host read of offset `off` returns (20_memory.md R75). KEY, CMD and the reserved offsets read 0x00. -/
def readOffset (off : BitVec 6) (s : State) : Byte :=
  if h : off.toNat < 0x10 then s.din.get ⟨off.toNat, h⟩
  else if off.toNat < 0x20 then 0x00#8
  else if h : off.toNat < 0x30 then s.dout.get ⟨off.toNat - 0x20, by omega⟩
  else if off.toNat = 0x30 then 0x00#8
  else if off.toNat = 0x31 then statusByte s
  else if off.toNat = 0x32 then s.errCause
  else 0x00#8

/-- The offset of CMD (10_state.md R32). -/
def cmdOffset : BitVec 6 := 0x30#6

/-- A host write of `v` at an offset other than CMD (20_memory.md R76): DIN and KEY take the byte; DOUT, STATUS, ERR_CAUSE
and the reserved offsets ignore it. CMD stores nothing (10_state.md R36). -/
def writeOffset (off : BitVec 6) (v : Byte) (s : State) : State :=
  if h : off.toNat < 0x10 then { s with din := s.din.set off.toNat v }
  else if h : off.toNat < 0x20 then { s with key := s.key.set (off.toNat - 0x10) v }
  else s

end Sys2Proof.Machine
end

