-- ==== Sys2Proof/Machine/Ops.lean ====
section
/-! DEFINITION. The operations the instructions and the turns share: accepting a command, raising an error (the core's only
exception mechanism), completing, resetting and moving the sequencer on. -/

namespace Sys2Proof.Machine

/-! ## Errors: the core's exceptions -/

/-- `raise Error(code)`: ERR is set and ERR_CAUSE takes the code; nothing is saved and no control is transferred
(60_exceptions.md R252). There is no return from an error: `clearReport`, at the next accepted command, is what ends it
(R257). -/
def raiseError (code : Byte) (s : State) : State := { s with err := true, errCause := code }

/-! ## Acceptance -/

/-- A command write (44_commands.md R230): ignored while BUSY = 1; otherwise the previous report is cleared and then the
decoded byte acts. -/
def accept (act : State → State) (s : State) : State := if s.busy then s else act (clearReport s)

/-- `Start(op)` (44_commands.md R232). The micro-program begins at its first micro-op (assumption log 4). -/
def start (op : OpSel) (s : State) : State := setBusy { captureOperands op s with hidUpc := 0 }

/-- What an accepted ENCRYPT or DECRYPT does: it starts, or a buffer is absent and it raises INVALID_ARGUMENT
(44_commands.md R230; 60_exceptions.md R250). -/
def commandEffect (op : OpSel) (inP keyP outP : Bool) (s : State) : State :=
  if allPresent inP keyP outP then start op s else raiseError causeInvalidArgument s

/-- A command byte that names no operation, written to CMD (44_commands.md R230; 60_exceptions.md R251). -/
def illegalCommand (s : State) : State := accept (raiseError causeIllegalCommand) s

/-! ## Hidden registers whose contents are unspecified -/

/-- The hidden registers take unspecified contents (10_state.md R43, R44): each a free value (assumption log 2). -/
def unspecifyHidden (s : State) : State :=
  { s with
    hidOpsel := Config.freeOpsel s.freeIdx
    hidSin := Config.freeSin s.freeIdx
    hidSkey := Config.freeSkey s.freeIdx
    hidS := Config.freeMat s.freeIdx
    hidW := Config.freeSched s.freeIdx
    hidRound := Config.freeRound s.freeIdx
    hidUpc := Config.freeUpc s.freeIdx
    freeIdx := s.freeIdx + 1 }

/-! ## Completion -/

/-- The completion step with a given result, enabled exactly when BUSY = 1 (44_commands.md R234): DOUT, BUSY and DONE change
together (20_memory.md R79) and the hidden registers become unspecified. While BUSY = 0 it is not enabled and nothing
changes (assumption log 5). -/
def completeWith (result : Block) (s : State) : State :=
  if s.busy then unspecifyHidden (setDone { s with dout := result }) else s

/-- The result of the operation in flight (44_commands.md R234). -/
def operationResult (s : State) : Block :=
  match s.hidOpsel with
  | .enc => cipher s.hidSin s.hidSkey
  | .dec => invCipher s.hidSin s.hidSkey

/-- `Complete()` (44_commands.md R234). -/
def complete (s : State) : State := completeWith (operationResult s) s

/-! ## Reset -/

/-- `Reset()` (70_reset_and_hazards.md R280): the host-visible registers take their reset values, an operation in flight is
abandoned, and the hidden registers are unspecified. The outside world's turns and what it has read stay. -/
def resetStep (s : State) : State :=
  unspecifyHidden
    { s with
      din := Block.zero
      key := Block.zero
      dout := Block.zero
      busy := false
      done := false
      err := false
      errCause := causeNone }

/-! ## The sequencer -/

/-- The sequencer moves past a micro-op: UPC goes to the next one of the listing (43_cipher.md R223). ROUND takes an
unspecified value, since no rule gives it one (assumption log 6). -/
def advance (s : State) : State :=
  { s with hidUpc := s.hidUpc + 1, hidRound := Config.freeRound s.freeIdx, freeIdx := s.freeIdx + 1 }

/-! ## What the host gets back -/

/-- A host read returns a byte (20_memory.md R75): only the record of returned bytes changes. -/
def returnByte (b : Byte) (s : State) : State := { s with returned := b :: s.returned }

end Sys2Proof.Machine
end

