-- ==== Sys2Proof/Machine/Commands.lean ====
section
/-! DEFINITION. The meanings of the two host commands (44_commands.md R236, R237): what the write of such a byte to CMD does
in its one step. The completion that follows is a step of the core. -/

namespace Sys2Proof.Machine

/-- ENCRYPT (44_commands.md R230, R232, R236). -/
def execEncrypt (inP keyP outP : Bool) (s : State) : Result := .next (accept (commandEffect .enc inP keyP outP) s)

/-- DECRYPT (44_commands.md R230, R232, R237). -/
def execDecrypt (inP keyP outP : Bool) (s : State) : Result := .next (accept (commandEffect .dec inP keyP outP) s)

end Sys2Proof.Machine
end

