-- ==== Sys2Proof/Machine/MicroOps.lean ====
section
/-! DEFINITION. The meanings of the ten micro-ops of the reference sequencer (43_cipher.md R210 to R219). None writes a flag
but STORE, whose micro-program ends in the completion step. Moving UPC on is the sequencer's (`advance`). -/

namespace Sys2Proof.Machine

/-- The state matrix is replaced by its image under a transform ("in place"). -/
def onS (f : Mat → Mat) (s : State) : State := { s with hidS := f s.hidS }

/-- LOADS: `HID.S <- load(HID.SIN)` (R210). -/
def execLoads (s : State) : Result := .next { s with hidS := load s.hidSin }

/-- KEXP k: round key `k` is written into `HID.W` (R211). -/
def execKexp (k : BitVec 4) (s : State) : Result :=
  match roundOperand k with
  | some r => .next { s with hidW := expandInto r s.hidSkey s.hidW }
  | none => .fault (.reservedMicroOp (uopWord 0x2#4 k))

/-- ARK k: `HID.S <- AddRoundKey(HID.S, load(HID.W[16k .. 16k+15]))` (R212). -/
def execArk (k : BitVec 4) (s : State) : Result :=
  match roundOperand k with
  | some r => .next (onS (fun m => addRoundKey m (roundKey s.hidW r)) s)
  | none => .fault (.reservedMicroOp (uopWord 0x3#4 k))

/-- SB: `HID.S <- SubBytes(HID.S)` (R213). -/
def execSb (s : State) : Result := .next (onS subBytes s)

/-- ISB: `HID.S <- InvSubBytes(HID.S)` (R214). -/
def execIsb (s : State) : Result := .next (onS invSubBytes s)

/-- SR: `HID.S <- ShiftRows(HID.S)` (R215). -/
def execSr (s : State) : Result := .next (onS shiftRows s)

/-- ISR: `HID.S <- InvShiftRows(HID.S)` (R216). -/
def execIsr (s : State) : Result := .next (onS invShiftRows s)

/-- MC: `HID.S <- MixColumns(HID.S)` (R217). -/
def execMc (s : State) : Result := .next (onS mixColumns s)

/-- IMC: `HID.S <- InvMixColumns(HID.S)` (R218). -/
def execImc (s : State) : Result := .next (onS invMixColumns s)

/-- STORE: the micro-program ends, and the completion step writes `store(HID.S)` to DOUT (R219; 44_commands.md R234). -/
def execStore (s : State) : Result := .next (completeWith (store s.hidS) s)

end Sys2Proof.Machine
end

