-- ==== Sys2Proof/Machine/Dispatch.lean ====
section
/-! DEFINITION. One arm per constructor of Instr: the meaning it calls. -/

namespace Sys2Proof.Machine

/-- What an instruction does. -/
def exec (i : Instr) (s : State) : Host.Outcome State Fault Refusal :=
  match i with
  | .encrypt inP keyP outP => Sys2Proof.Machine.execEncrypt inP keyP outP s
  | .decrypt inP keyP outP => Sys2Proof.Machine.execDecrypt inP keyP outP s
  | .loads => Sys2Proof.Machine.execLoads s
  | .kexp k => Sys2Proof.Machine.execKexp k s
  | .ark k => Sys2Proof.Machine.execArk k s
  | .sb => Sys2Proof.Machine.execSb s
  | .isb => Sys2Proof.Machine.execIsb s
  | .sr => Sys2Proof.Machine.execSr s
  | .isr => Sys2Proof.Machine.execIsr s
  | .mc => Sys2Proof.Machine.execMc s
  | .imc => Sys2Proof.Machine.execImc s
  | .store => Sys2Proof.Machine.execStore s

end Sys2Proof.Machine
end

