-- ==== Sys2Proof/Machine/MicroProgram.lean ====
section
/-! DEFINITION. The two micro-programs of the reference sequencer, word by word (43_cipher.md R220, R221; the words of
95_test_vectors.md L2.11), and the fetch of a micro-op. -/

namespace Sys2Proof.Machine

/-- LOADS and the eleven KEXP micro-ops, which open both programs. -/
def prologueWords : List Byte := [0x10, 0x20, 0x21, 0x22, 0x23, 0x24, 0x25, 0x26, 0x27, 0x28, 0x29, 0x2A]

/-- The encrypt micro-program (R220). -/
def encryptWords : List Byte :=
  prologueWords ++ [0x30] ++
  [0x40, 0x60, 0x80, 0x31] ++ [0x40, 0x60, 0x80, 0x32] ++ [0x40, 0x60, 0x80, 0x33] ++
  [0x40, 0x60, 0x80, 0x34] ++ [0x40, 0x60, 0x80, 0x35] ++ [0x40, 0x60, 0x80, 0x36] ++
  [0x40, 0x60, 0x80, 0x37] ++ [0x40, 0x60, 0x80, 0x38] ++ [0x40, 0x60, 0x80, 0x39] ++
  [0x40, 0x60, 0x3A, 0xA0]

/-- The decrypt micro-program (R221). -/
def decryptWords : List Byte :=
  prologueWords ++ [0x3A] ++
  [0x70, 0x50, 0x39, 0x90] ++ [0x70, 0x50, 0x38, 0x90] ++ [0x70, 0x50, 0x37, 0x90] ++
  [0x70, 0x50, 0x36, 0x90] ++ [0x70, 0x50, 0x35, 0x90] ++ [0x70, 0x50, 0x34, 0x90] ++
  [0x70, 0x50, 0x33, 0x90] ++ [0x70, 0x50, 0x32, 0x90] ++ [0x70, 0x50, 0x31, 0x90] ++
  [0x70, 0x50, 0x30, 0xA0]

/-- The micro-program an operation runs. -/
def microProgram : OpSel → List Byte
  | .enc => encryptWords
  | .dec => decryptWords

/-- Each micro-program has 53 words (R220, R221). -/
theorem microProgram_length (op : OpSel) : (microProgram op).length = 53 := by cases op <;> rfl

/-- The word at an index of a micro-program. -/
def uopAt (op : OpSel) (n : UopIndex) : Byte := (microProgram op).get (n.cast (microProgram_length op).symm)

/-- The word the sequencer fetches next: that of the running micro-program at UPC (10_state.md R43, R44). -/
def fetchUop (s : State) : Byte := uopAt s.hidOpsel s.hidUpc

/-- Where a word stands in a micro-program: the least index, if any. -/
def indexIn (op : OpSel) (w : Byte) : Option UopIndex := (List.finRange 53).find? fun n => uopAt op n == w

/-- An operation and an index at which its micro-program holds the word. -/
def locate (w : Byte) : Option (OpSel × UopIndex) :=
  match indexIn .enc w with
  | some n => some (.enc, n)
  | none => (indexIn .dec w).map fun n => (.dec, n)

end Sys2Proof.Machine
end

