-- ==== Sys2Proof/Machine/Turns.lean ====
section
/-! DEFINITION. What each turn of each agent does (44_commands.md R240): host transfers and accesses, the core's micro-ops
and completion, and reset. The step function only picks the turn. -/

namespace Sys2Proof.Machine

/-! ## The host -/

/-- A byte written to CMD: the command it decodes to runs, an illegal byte raises ILLEGAL_COMMAND (44_commands.md R230). -/
def writeCommand (v : Byte) (s : State) : Result :=
  match decodeCommand v with
  | .ok i => exec i s
  | .error _ => .next (illegalCommand s)

/-- HostRead and HostWrite (20_memory.md R75, R76). -/
def runTransfer : Transfer → State → Result
  | .read off, s => .next (returnByte (readOffset off s) s)
  | .write off v, s => if off = cmdOffset then writeCommand v s else .next (writeOffset off v s)

/-- The address lies in the register window (20_memory.md R71). -/
def inWindow (addr : Nat) : Bool := Config.aesBase ≤ addr && addr ≤ Config.aesBase + 0x3F

/-- The window offset of an address: `off = a - AES_BASE`, 6 bits (20_memory.md R71). -/
def offsetOf (addr : Nat) : BitVec 6 := BitVec.ofNat 6 (addr - Config.aesBase)

/-- A host access reaches the core when it is one byte wide and inside the window; otherwise it has no step and is refused
(20_memory.md R71, R72, R74). The width is checked first: DESIGN CHOICE (assumption log 13). -/
def selectAccess (addr width : Nat) (t : BitVec 6 → Transfer) (s : State) : Result :=
  if width ≠ 1 then .refused (.accessWidth width)
  else if inWindow addr then runTransfer (t (offsetOf addr)) s
  else .refused (.outsideWindow addr)

/-- MemRead and MemWrite at a platform address (00_scope.md R13; 20_memory.md R71). -/
def platformAccess : Access → State → Result
  | .memRead addr width, s => selectAccess addr width .read s
  | .memWrite addr width v, s => selectAccess addr width (fun off => .write off v) s

/-! ## The core -/

/-- A micro-op word runs, and a reserved one faults by name (30_encoding.md R112). -/
def runUopWord (w : Byte) (s : State) : Result :=
  match decodeUop w with
  | .ok i => exec i s
  | .error _ => .fault (.reservedMicroOp w)

/-- The core's micro-op turn: while BUSY = 1 the sequencer fetches a word, moves on and runs it; while BUSY = 0 the core
takes no step of its own (60_exceptions.md R267). -/
def microStep (s : State) : Result := if s.busy then runUopWord (fetchUop s) (advance s) else .next s

/-! ## All agents -/

/-- What a turn does. -/
def takeTurn : Turn → State → Result
  | .transfer t, s => runTransfer t s
  | .access a, s => platformAccess a s
  | .microOp, s => microStep s
  | .completion, s => .next (complete s)
  | .reset, s => .next (resetStep s)

/-! ## Placing an instruction where the next step takes it -/

/-- A micro-op word is placed by starting the sequencer at a place of a micro-program that holds it; any other byte is
placed as the host's next write to CMD (assumption log 3). -/
def placeByte (b : Byte) (s : State) : State :=
  match locate b with
  | some (op, n) => { s with busy := true, hidOpsel := op, hidUpc := n, turns := .microOp :: s.turns }
  | none => { s with turns := .transfer (.write cmdOffset b) :: s.turns }

end Sys2Proof.Machine
end

