-- ==== Sys2Proof/Machine/Step.lean ====
section
/-! DEFINITION. One step of the machine: the next turn of the one total order is taken (20_memory.md R83). When no turn is
pending the core goes on with the operation in flight, so that a command always completes (44_commands.md R235). -/

namespace Sys2Proof.Machine

/-- One atomic step. -/
def step (s : State) : Host.Outcome State Fault Refusal :=
  match s.turns with
  | [] => microStep s
  | t :: rest => takeTurn t { s with turns := rest }

/-- `s` with the instruction of the table's bits placed so that the next step fetches and runs it. -/
def State.withFetchWord (s : State) (nbits w : Nat) : State := placeByte (firstByte nbits w) s

end Sys2Proof.Machine
end

