-- ==== Sys2Proof/Safety.lean ====
section
/-! DEFINITION. The terms in which claims about the core are made: what a legal state is, what a host can see, and the
reference field arithmetic the tables are checked against. -/

namespace Sys2Proof.Machine

/-! ## Legal states -/

/-- At most one of BUSY, DONE and ERR is 1 (10_state.md R41). -/
def StatusOneHot (s : State) : Prop :=
  ¬ (s.busy = true ∧ s.done = true) ∧ ¬ (s.busy = true ∧ s.err = true) ∧ ¬ (s.done = true ∧ s.err = true)

/-- ERR_CAUSE is NONE unless ERR = 1, and then it is one of the two codes (R42; 60_exceptions.md R253). -/
def ErrorReportLegal (s : State) : Prop :=
  (s.err = false → s.errCause = 0x00#8) ∧ (s.err = true → s.errCause = 0x01#8 ∨ s.errCause = 0x02#8)

/-- `n` micro-op turns of the core, one after the other, stopping where one stops. -/
def microSteps : Nat → State → Result
  | 0, s => .next s
  | n + 1, s =>
    match microStep s with
    | .next t => microSteps n t
    | .fault r => .fault r
    | .refused r => .refused r

/-- The number of micro-ops the running micro-program has still to run. -/
def remaining (s : State) : Nat := 53 - s.hidUpc.val

/-- An operation in flight is on its way to the right result: when the core is left to run the rest of its micro-program,
it completes, and DOUT takes Cipher or InvCipher of the captured operands (43_cipher.md R200, R222). -/
def InFlightRight (s : State) : Prop :=
  s.busy = true →
    ∃ t, microSteps (remaining s) s = .next t ∧ t.busy = false ∧ t.done = true ∧ t.dout = operationResult s

/-- A run of a host program has ended: the host has nothing more to do and the core is idle (70_reset_and_hazards.md R294). -/
def RunEnded (s : State) : Prop := s.turns = [] ∧ s.busy = false

/-! ## What a host sees -/

/-- The part of the state host reads can show, and what they have returned (10_state.md R32; 60_exceptions.md R266). -/
structure HostView where
  din : Block
  dout : Block
  busy : Bool
  done : Bool
  err : Bool
  errCause : Byte
  returned : List Byte
  deriving DecidableEq, Repr

/-- What a host can see of a state. -/
def hostView (s : State) : HostView :=
  ⟨s.din, s.dout, s.busy, s.done, s.err, s.errCause, s.returned⟩

/-! ## Kinds of turn -/

/-- The transfer a turn brings to the core's port, if any: a transfer, or a one-byte access inside the window. -/
def Turn.transfer? : Turn → Option Transfer
  | .transfer t => some t
  | .access (.memRead addr width) => if width = 1 ∧ inWindow addr = true then some (.read (offsetOf addr)) else none
  | .access (.memWrite addr width v) => if width = 1 ∧ inWindow addr = true then some (.write (offsetOf addr) v) else none
  | .microOp => none
  | .completion => none
  | .reset => none

/-- The byte a turn writes to the register window at an offset, if it does. -/
def Turn.writeAt? (t : Turn) (off : BitVec 6) : Option Byte :=
  match t.transfer? with
  | some (.write o v) => if o = off then some v else none
  | _ => none

/-- The turn the next step takes: the first pending one, else a micro-op turn of the core. -/
def nextTurn (s : State) : Turn :=
  match s.turns with
  | [] => .microOp
  | t :: _ => t

/-- The state the next turn acts on: the turn itself is taken off the list. -/
def turnTaken (s : State) : State := { s with turns := s.turns.tail }

/-! ## Reference field arithmetic -/

/-- Multiplication in GF(2^8) with the modulus 0x11B, bit by bit of the first factor (41_transforms.md R150 to R152): the sum
of the doublings of `y` that the bits of `x` select. -/
def gfMulBits : Nat → Nat → Byte → Byte
  | 0, _, _ => 0x00#8
  | n + 1, x, y => (if x % 2 = 1 then y else 0x00#8) ^^^ gfMulBits n (x / 2) (xtime y)

/-- The product of two bytes in GF(2^8). -/
def gfMul (x y : Byte) : Byte := gfMulBits 8 x.toNat y

/-- The affine map `A` of the S-box generator: bit `i` is `y[i] ^ y[i+4] ^ y[i+5] ^ y[i+6] ^ y[i+7] ^ c[i]`, indices modulo 8,
with `c = 0x63` (40_tables.md R134). Rotating left by 1 to 4 brings bits `i+7` to `i+4` to place `i`. -/
def affineMap (y : Byte) : Byte :=
  y ^^^ y.rotateLeft 4 ^^^ y.rotateLeft 3 ^^^ y.rotateLeft 2 ^^^ y.rotateLeft 1 ^^^ 0x63#8

end Sys2Proof.Machine
end

