-- ==== Sys2Proof/Certificates/Slice0/Obligations.lean ====
section
/-! DEFINITION. The statements for the provers: what the numbered rules of spec/ say the core does. A statement whose
docstring names a log entry rests, in that clause, on the model's own choice. -/

open Sys2Proof Sys2Proof.Machine

/-! ## Encodings -/

/-- A few words written out from the fields of R103 and the codes of R111 decode to the instructions they stand for. -/
def Obligations.SpecWordsDecode : Prop :=
  -- {RSV = 000, OUT_P, KEY_P, IN_P, OP}
  decodeByte 0b00011101#8 = .ok (.encrypt true true true) ∧ decodeByte 0b00011001#8 = .ok (.encrypt false true true) ∧
  decodeByte 0b00011110#8 = .ok (.decrypt true true true) ∧ decodeByte 0b00001110#8 = .ok (.decrypt true true false) ∧
  -- {UOP, RND}
  decodeByte 0b00010000#8 = .ok .loads ∧ decodeByte 0b00101010#8 = .ok (.kexp 10#4) ∧
  decodeByte 0b00110011#8 = .ok (.ark 3#4) ∧ decodeByte 0b01000000#8 = .ok .sb ∧ decodeByte 0b01010000#8 = .ok .isb ∧
  decodeByte 0b01100000#8 = .ok .sr ∧ decodeByte 0b01110000#8 = .ok .isr ∧ decodeByte 0b10000000#8 = .ok .mc ∧
  decodeByte 0b10010000#8 = .ok .imc ∧ decodeByte 0b10100000#8 = .ok .store

/-- Decoding the encoding of a well-formed instruction gives it back, whatever bytes follow, and by the decoder of its own
kind: a command as a byte written to CMD, a micro-op as a micro-op word. -/
def Obligations.DecodeOfEncodeIsIdentity : Prop :=
  ∀ i : Instr, i.wellFormed = true → ∀ rest : List Byte,
    decode (encode i ++ rest) = .ok (i, rest) ∧
    (i.isCommand = true → decodeCommand (encodeByte i) = .ok i) ∧
    (i.isCommand = false → decodeUop (encodeByte i) = .ok i)

/-- A byte that decodes is the encoding of what it decodes to, which is well formed: each instruction has one byte. -/
def Obligations.EncodeOfDecodeIsIdentity : Prop :=
  ∀ (b : Byte) (i : Instr), decodeByte b = .ok i → encodeByte i = b ∧ i.wellFormed = true

/-- The class of every command byte, by its fields (R107). -/
def Obligations.CommandByteClassByFields : Prop :=
  ∀ v : Byte, commandClass v =
    (if v.extractLsb' 5 3 ≠ 0b000#3 then .illegal
     else if v.extractLsb' 0 2 = 0b01#2 then
       (if v.getLsbD 2 = false ∨ v.getLsbD 3 = false ∨ v.getLsbD 4 = false then .absent .enc else .run .enc)
     else if v.extractLsb' 0 2 = 0b10#2 then
       (if v.getLsbD 2 = false ∨ v.getLsbD 3 = false ∨ v.getLsbD 4 = false then .absent .dec else .run .dec)
     else .illegal)

/-- The classes of the 256 command bytes, listed, with their counts (R108). -/
def Obligations.CommandByteClassTable : Prop :=
  (∀ v : Byte, commandClass v = .run .enc ↔ v = 0x1D#8) ∧
  (∀ v : Byte, commandClass v = .run .dec ↔ v = 0x1E#8) ∧
  (∀ v : Byte, commandClass v = .absent .enc ↔ v ∈ [0x01#8, 0x05#8, 0x09#8, 0x0D#8, 0x11#8, 0x15#8, 0x19#8]) ∧
  (∀ v : Byte, commandClass v = .absent .dec ↔ v ∈ [0x02#8, 0x06#8, 0x0A#8, 0x0E#8, 0x12#8, 0x16#8, 0x1A#8]) ∧
  (∀ v : Byte, commandClass v = .illegal ↔
    v ∈ [0x00#8, 0x03#8, 0x04#8, 0x07#8, 0x08#8, 0x0B#8, 0x0C#8, 0x0F#8] ++
        [0x10#8, 0x13#8, 0x14#8, 0x17#8, 0x18#8, 0x1B#8, 0x1C#8, 0x1F#8] ∨ 0x20 ≤ v.toNat) ∧
  ((List.range 256).countP fun n => commandClass (BitVec.ofNat 8 n) == .illegal) = 240

/-- The two micro-programs hold the words of R220 and R221, in order. -/
def Obligations.MicroProgramListings : Prop :=
  (List.finRange 53).map (uopAt .enc) =
    [0x10, 0x20, 0x21, 0x22, 0x23, 0x24, 0x25, 0x26, 0x27, 0x28, 0x29, 0x2A, 0x30] ++
    ([0x31, 0x32, 0x33, 0x34, 0x35, 0x36, 0x37, 0x38, 0x39].flatMap fun a => [0x40, 0x60, 0x80, a]) ++
    [0x40, 0x60, 0x3A, 0xA0] ∧
  (List.finRange 53).map (uopAt .dec) =
    [0x10, 0x20, 0x21, 0x22, 0x23, 0x24, 0x25, 0x26, 0x27, 0x28, 0x29, 0x2A, 0x3A] ++
    ([0x39, 0x38, 0x37, 0x36, 0x35, 0x34, 0x33, 0x32, 0x31].flatMap fun a => [0x70, 0x50, a, 0x90]) ++
    [0x70, 0x50, 0x30, 0xA0]

/-- The reserved micro-op words are exactly those R112 lists, each faults by name when a micro-op level model is to run it,
KEXP and ARK with a round index above 10 fault with their word, no micro-program holds one, and so no step, from any state,
runs one: no step faults. -/
def Obligations.ReservedMicroOpWordsFault : Prop :=
  (∀ (w : Byte) (s : State),
    (w.toNat / 16 = 0 ∨ 0xB ≤ w.toNat / 16 ∨
      ((w.toNat / 16 = 0x2 ∨ w.toNat / 16 = 0x3) ∧ 10 < w.toNat % 16) ∨
      (w.toNat / 16 ≠ 0x2 ∧ w.toNat / 16 ≠ 0x3 ∧ w.toNat % 16 ≠ 0)) ↔
    runUopWord w s = .fault (.reservedMicroOp w)) ∧
  (∀ (k : BitVec 4) (s : State), 10 < k.toNat →
    exec (.kexp k) s = .fault (.reservedMicroOp (0x2#4 ++ k)) ∧
    exec (.ark k) s = .fault (.reservedMicroOp (0x3#4 ++ k))) ∧
  (∀ (op : OpSel) (n : UopIndex), ∃ i, decodeUop (uopAt op n) = .ok i) ∧
  (∀ (s : State) (r : Fault), step s ≠ .fault r)

/-! ## Reset -/

/-- The state after reset (the table of R280): the host-visible registers are zero, so every offset of the window reads
0x00. Nothing is said of the hidden registers, which R280 leaves unspecified. -/
def Obligations.ResetStateIsZero : Prop :=
  (∀ i, State.reset.din.get i = 0x00#8) ∧ (∀ i, State.reset.key.get i = 0x00#8) ∧
  (∀ i, State.reset.dout.get i = 0x00#8) ∧
  State.reset.busy = false ∧ State.reset.done = false ∧ State.reset.err = false ∧ State.reset.errCause = 0x00#8 ∧
  (∀ off, readOffset off State.reset = 0x00#8)

/-- The reset step, from every state: it is always enabled, it leaves the values of R280, so that every offset of the window
reads 0x00, and an operation in flight is abandoned. What the outside world has still to do and has read back stays
(log 12). -/
def Obligations.ResetStepLeavesResetValues : Prop :=
  ∀ (s : State) (rest : List Turn), s.turns = .reset :: rest →
    ∃ t, step s = .next t ∧
      (∀ i, t.din.get i = 0x00#8) ∧ (∀ i, t.key.get i = 0x00#8) ∧ (∀ i, t.dout.get i = 0x00#8) ∧
      t.busy = false ∧ t.done = false ∧ t.err = false ∧ t.errCause = 0x00#8 ∧
      (∀ off, readOffset off t = 0x00#8) ∧ t.turns = rest ∧ t.returned = s.returned

/-! ## The register window -/

/-- A host read: the byte of R75 is returned, and nothing else changes. The model shows a returned byte by adding it to its
own record of what host reads have returned (log 3). -/
def Obligations.HostReadReturnsRegister : Prop :=
  ∀ (s : State) (rest : List Turn) (off : BitVec 6), s.turns = .transfer (.read off) :: rest →
    ∃ v, step s = .next { s with turns := rest, returned := v :: s.returned } ∧
      (∀ i : Fin 16, off.toNat = i.val → v = s.din.get i) ∧
      (0x10 ≤ off.toNat → off.toNat ≤ 0x1F → v = 0x00#8) ∧
      (∀ i : Fin 16, off.toNat = 0x20 + i.val → v = s.dout.get i) ∧
      (off.toNat = 0x30 → v = 0x00#8) ∧
      (off.toNat = 0x31 → v = 0b00000#5 ++ BitVec.ofBool s.err ++ BitVec.ofBool s.done ++ BitVec.ofBool s.busy) ∧
      (off.toNat = 0x32 → v = s.errCause) ∧
      (0x33 ≤ off.toNat → v = 0x00#8)

/-- A host write (R76), whether or not an operation is in flight: DIN and KEY take the byte, CMD takes it as a command,
and DOUT, STATUS, ERR_CAUSE and the reserved offsets ignore it. Nothing else changes. -/
def Obligations.HostWriteStoresRegister : Prop :=
  ∀ (s : State) (rest : List Turn) (off : BitVec 6) (v : Byte), s.turns = .transfer (.write off v) :: rest →
    (∀ i : Fin 16, off.toNat = i.val →
      step s = .next { s with turns := rest, din := s.din.set i.val v }) ∧
    (∀ i : Fin 16, off.toNat = 0x10 + i.val →
      step s = .next { s with turns := rest, key := s.key.set i.val v }) ∧
    (off.toNat = 0x30 → step s = writeCommand v { s with turns := rest }) ∧
    (0x20 ≤ off.toNat → off.toNat ≠ 0x30 → step s = .next { s with turns := rest })

/-- An access of the platform at `AES_BASE + off`, one byte wide, is the transfer at offset `off` (R71). -/
def Obligations.WindowAccessIsTransfer : Prop :=
  ∀ (s : State) (rest : List Turn) (off : BitVec 6) (v : Byte),
    step { s with turns := .access (.memRead (Config.aesBase + off.toNat) 1) :: rest } =
      step { s with turns := .transfer (.read off) :: rest } ∧
    step { s with turns := .access (.memWrite (Config.aesBase + off.toNat) 1 v) :: rest } =
      step { s with turns := .transfer (.write off v) :: rest }

/-- An access that is not one byte wide is refused (R72), and so is a one-byte access outside the window (R74). Which of the
two refusals is given where the width is wrong and the address lies outside the window as well is the model's choice, the
width being checked first (log 13). -/
def Obligations.OtherAccessesRefused : Prop :=
  ∀ (s : State) (rest : List Turn) (addr width : Nat) (v : Byte),
    (width ≠ 1 →
      step { s with turns := .access (.memRead addr width) :: rest } = .refused (.accessWidth width) ∧
      step { s with turns := .access (.memWrite addr width v) :: rest } = .refused (.accessWidth width)) ∧
    (addr < Config.aesBase ∨ Config.aesBase + 0x3F < addr →
      step { s with turns := .access (.memRead addr 1) :: rest } = .refused (.outsideWindow addr) ∧
      step { s with turns := .access (.memWrite addr 1 v) :: rest } = .refused (.outsideWindow addr))

/-- The key and the hidden registers cannot be read back: two states that look the same to a host still look the same
after any turn that is not the core's own, so nothing a host reads tells them apart. -/
def Obligations.HostTurnsHideKeyAndHiddenState : Prop :=
  ∀ (s t : State) (turn : Turn), hostView s = hostView t → turn ≠ .microOp → turn ≠ .completion →
    ∀ s', takeTurn turn s = .next s' → ∃ t', takeTurn turn t = .next t' ∧ hostView s' = hostView t'

/-! ## Commands -/

/-- A command byte that names an operation with every buffer present, accepted while BUSY = 0, starts it (R230, R232): the
report is cleared, DIN and KEY are captured, BUSY is set, and nothing else is changed but the index UPC of the next
micro-op, of which R232 says nothing. -/
def Obligations.CommandStartsOperation : Prop :=
  ∀ s : State, s.busy = false →
    (∃ t, exec (.encrypt true true true) s = .next t ∧
      t = { s with
        done := false, err := false, errCause := 0x00#8, busy := true
        hidOpsel := .enc, hidSin := s.din, hidSkey := s.key, hidUpc := t.hidUpc }) ∧
    (∃ t, exec (.decrypt true true true) s = .next t ∧
      t = { s with
        done := false, err := false, errCause := 0x00#8, busy := true
        hidOpsel := .dec, hidSin := s.din, hidSkey := s.key, hidUpc := t.hidUpc })

/-- The model's choice (log 4): an operation that starts begins at the first micro-op of its micro-program, so the word
fetched next is LOADS. -/
def Obligations.OperationBeginsAtFirstMicroOp : Prop :=
  ∀ (s t : State), s.busy = false →
    (exec (.encrypt true true true) s = .next t → t.hidUpc = 0 ∧ fetchUop t = 0x10#8) ∧
    (exec (.decrypt true true true) s = .next t → t.hidUpc = 0 ∧ fetchUop t = 0x10#8)

/-- A command byte with a presence bit 0, accepted while BUSY = 0, raises INVALID_ARGUMENT and changes nothing else: no
operand is captured, nothing starts, DOUT keeps its value (R233, R250, R252). -/
def Obligations.AbsentBufferRaisesInvalidArgument : Prop :=
  ∀ (s : State) (i k o : Bool), s.busy = false → (i = false ∨ k = false ∨ o = false) →
    exec (.encrypt i k o) s = .next { s with done := false, err := true, errCause := 0x01#8 } ∧
    exec (.decrypt i k o) s = .next { s with done := false, err := true, errCause := 0x01#8 }

/-- A byte with a reserved field written to CMD while BUSY = 0 raises ILLEGAL_COMMAND and changes nothing else, even when a
presence bit is also 0 (R106, R251, R254). -/
def Obligations.IllegalByteRaisesIllegalCommand : Prop :=
  ∀ (s : State) (rest : List Turn) (v : Byte), s.turns = .transfer (.write 0x30#6 v) :: rest → s.busy = false →
    (v.extractLsb' 5 3 ≠ 0b000#3 ∨ v.extractLsb' 0 2 = 0b00#2 ∨ v.extractLsb' 0 2 = 0b11#2) →
    step s = .next { s with turns := rest, done := false, err := true, errCause := 0x02#8 }

/-- A command written while BUSY = 1 is lost, whatever the byte: no state changes but that the write has been made
(R230). The meanings of the two commands say the same of themselves. -/
def Obligations.CommandWhileBusyIgnored : Prop :=
  (∀ (s : State) (rest : List Turn) (v : Byte), s.turns = .transfer (.write 0x30#6 v) :: rest → s.busy = true →
    step s = .next { s with turns := rest }) ∧
  (∀ (s : State) (i k o : Bool), s.busy = true →
    exec (.encrypt i k o) s = .next s ∧ exec (.decrypt i k o) s = .next s)

/-- The order of the checks on a byte written to CMD (R254): busy, then illegal byte, then absent buffer, then start; the
whole of the command write of R230 in one step. -/
def Obligations.CommandWriteChecksInOrder : Prop :=
  ∀ (s : State) (rest : List Turn) (v : Byte), s.turns = .transfer (.write 0x30#6 v) :: rest →
    ∃ t, step s = .next t ∧
      (if s.busy = true then t = { s with turns := rest }
       else if v.extractLsb' 5 3 ≠ 0b000#3 ∨ v.extractLsb' 0 2 = 0b00#2 ∨ v.extractLsb' 0 2 = 0b11#2 then
         t = { s with turns := rest, done := false, err := true, errCause := 0x02#8 }
       else if v.getLsbD 2 = false ∨ v.getLsbD 3 = false ∨ v.getLsbD 4 = false then
         t = { s with turns := rest, done := false, err := true, errCause := 0x01#8 }
       else
         t = { s with
           turns := rest, done := false, err := false, errCause := 0x00#8, busy := true
           hidOpsel := (if v.extractLsb' 0 2 = 0b01#2 then .enc else .dec)
           hidSin := s.din, hidSkey := s.key, hidUpc := t.hidUpc })

/-- The completion step (R234): while BUSY = 1, in one step DOUT takes Cipher or InvCipher of the captured operands, BUSY
falls and DONE rises; DIN, KEY, ERR and ERR_CAUSE stay as they are. Nothing is said of the hidden registers, which are
unspecified from then on. -/
def Obligations.CompletionWritesResult : Prop :=
  ∀ (s : State) (rest : List Turn), s.turns = .completion :: rest → s.busy = true →
    ∃ t, step s = .next t ∧
      (s.hidOpsel = .enc → t.dout = cipher s.hidSin s.hidSkey) ∧
      (s.hidOpsel = .dec → t.dout = invCipher s.hidSin s.hidSkey) ∧
      t.busy = false ∧ t.done = true ∧ t.err = s.err ∧ t.errCause = s.errCause ∧ t.din = s.din ∧ t.key = s.key ∧
      t.turns = rest ∧ t.returned = s.returned

/-- While BUSY = 0 the core takes no step of its own: a turn given to it changes no register, and neither does STORE, which is
the completion step (R234, R267; that the turn passes is the model's choice, log 5, and so is what a step is when no turn
is pending, log 3 and log 8). -/
def Obligations.IdleCoreChangesNothing : Prop :=
  ∀ (s : State) (rest : List Turn), s.busy = false →
    exec .store s = .next s ∧
    (s.turns = .completion :: rest → step s = .next { s with turns := rest }) ∧
    (s.turns = .microOp :: rest → step s = .next { s with turns := rest }) ∧
    (s.turns = [] → step s = .next s)

/-! ## Micro-ops -/

/-- LOADS (R210), word 0x10: `HID.S[r][c] <- HID.SIN[r + 4c]`; nothing else changes. -/
def Obligations.LoadsFillsStateByColumns : Prop :=
  decodeUop 0x10#8 = .ok .loads ∧
  ∀ s : State, ∃ t, exec .loads s = .next t ∧
    (∀ r c : Fin 4, t.hidS.entry r c = s.hidSin.get ⟨r.val + 4 * c.val, by omega⟩) ∧
    t = { s with hidS := t.hidS }

/-- KEXP k (R211), word 0x20 + k, k in 0..10: round key 0 is SKEY verbatim; round key `k >= 1` is computed from round key
`k - 1` by the body of the loop of R183, byte by byte with `p = 16(k-1)` and `n = 16k`. No other byte of `HID.W` and
nothing else of the state changes. -/
def Obligations.KexpWritesOneRoundKey : Prop :=
  ∀ (s : State) (k : BitVec 4) (hk : k.toNat ≤ 10),
    decodeUop (0x20#8 + k.setWidth 8) = .ok (.kexp k) ∧ ∃ t, exec (.kexp k) s = .next t ∧
    t = { s with hidW := t.hidW } ∧
    (∀ n : Fin 176, n.val / 16 ≠ k.toNat → t.hidW.byte n = s.hidW.byte n) ∧
    (k.toNat = 0 → ∀ j : Fin 16, t.hidW.byte ⟨j.val, by omega⟩ = s.hidSkey.get j) ∧
    (∀ hk1 : 1 ≤ k.toNat,
      (t.hidW.byte ⟨16 * k.toNat, by omega⟩ =
        s.hidW.byte ⟨16 * (k.toNat - 1), by omega⟩ ^^^
          (sbox (s.hidW.byte ⟨16 * (k.toNat - 1) + 13, by omega⟩) ^^^ rcon.get ⟨k.toNat - 1, by omega⟩)) ∧
      (t.hidW.byte ⟨16 * k.toNat + 1, by omega⟩ =
        s.hidW.byte ⟨16 * (k.toNat - 1) + 1, by omega⟩ ^^^ sbox (s.hidW.byte ⟨16 * (k.toNat - 1) + 14, by omega⟩)) ∧
      (t.hidW.byte ⟨16 * k.toNat + 2, by omega⟩ =
        s.hidW.byte ⟨16 * (k.toNat - 1) + 2, by omega⟩ ^^^ sbox (s.hidW.byte ⟨16 * (k.toNat - 1) + 15, by omega⟩)) ∧
      (t.hidW.byte ⟨16 * k.toNat + 3, by omega⟩ =
        s.hidW.byte ⟨16 * (k.toNat - 1) + 3, by omega⟩ ^^^ sbox (s.hidW.byte ⟨16 * (k.toNat - 1) + 12, by omega⟩)) ∧
      (∀ (g : Fin 3) (u : Fin 4),
        t.hidW.byte ⟨16 * k.toNat + 4 * (g.val + 1) + u.val, by omega⟩ =
          s.hidW.byte ⟨16 * (k.toNat - 1) + 4 * (g.val + 1) + u.val, by omega⟩ ^^^
            t.hidW.byte ⟨16 * k.toNat + 4 * g.val + u.val, by omega⟩))

/-- ARK k (R212, R12), word 0x30 + k, k in 0..10: `HID.S[r][c] <- HID.S[r][c] ^ HID.W[16k + r + 4c]`; nothing
else changes. -/
def Obligations.ArkAddsRoundKey : Prop :=
  ∀ (s : State) (k : BitVec 4) (hk : k.toNat ≤ 10),
    decodeUop (0x30#8 + k.setWidth 8) = .ok (.ark k) ∧ ∃ t, exec (.ark k) s = .next t ∧
    (∀ r c : Fin 4, t.hidS.entry r c =
      s.hidS.entry r c ^^^ s.hidW.byte ⟨16 * k.toNat + r.val + 4 * c.val, by omega⟩) ∧
    t = { s with hidS := t.hidS }

/-- SB and ISB (R213, R214), words 0x40 and 0x50: every byte of `HID.S` goes through its table; nothing else changes. -/
def Obligations.ByteSubstituterMapsEachByte : Prop :=
  decodeUop 0x40#8 = .ok .sb ∧ decodeUop 0x50#8 = .ok .isb ∧
  ∀ s : State,
    (∃ t, exec .sb s = .next t ∧ (∀ r c, t.hidS.entry r c = sbox (s.hidS.entry r c)) ∧ t = { s with hidS := t.hidS }) ∧
    (∃ t, exec .isb s = .next t ∧ (∀ r c, t.hidS.entry r c = invSbox (s.hidS.entry r c)) ∧
      t = { s with hidS := t.hidS })

/-- SR and ISR (R215, R216), words 0x60 and 0x70: row `r` of `HID.S` is rotated left, respectively right, by `r`; nothing
else changes. -/
def Obligations.RowShifterRotatesRows : Prop :=
  decodeUop 0x60#8 = .ok .sr ∧ decodeUop 0x70#8 = .ok .isr ∧
  ∀ s : State,
    (∃ t, exec .sr s = .next t ∧
      (∀ r c : Fin 4, t.hidS.entry r c = s.hidS.entry r ⟨(c.val + r.val) % 4, by omega⟩) ∧ t = { s with hidS := t.hidS }) ∧
    (∃ t, exec .isr s = .next t ∧
      (∀ r c : Fin 4, t.hidS.entry r c = s.hidS.entry r ⟨(c.val + 4 - r.val) % 4, by omega⟩) ∧
      t = { s with hidS := t.hidS })

/-- MC and IMC (R217, R218), words 0x80 and 0x90: each column of `HID.S` is multiplied over GF(2^8) by the cyclic
matrix with first row `(2 3 1 1)`, respectively `(14 11 13 9)`; nothing else changes. The products are those of a
bit-serial multiplication. -/
def Obligations.ColumnMixerMultipliesColumns : Prop :=
  decodeUop 0x80#8 = .ok .mc ∧ decodeUop 0x90#8 = .ok .imc ∧
  ∀ s : State,
    (∃ t, exec .mc s = .next t ∧
      (∀ i c : Fin 4, t.hidS.entry i c =
        gfMul 2#8 (s.hidS.entry i c) ^^^ gfMul 3#8 (s.hidS.entry (i + 1) c) ^^^
          s.hidS.entry (i + 2) c ^^^ s.hidS.entry (i + 3) c) ∧ t = { s with hidS := t.hidS }) ∧
    (∃ t, exec .imc s = .next t ∧
      (∀ i c : Fin 4, t.hidS.entry i c =
        gfMul 14#8 (s.hidS.entry i c) ^^^ gfMul 11#8 (s.hidS.entry (i + 1) c) ^^^
          gfMul 13#8 (s.hidS.entry (i + 2) c) ^^^ gfMul 9#8 (s.hidS.entry (i + 3) c)) ∧ t = { s with hidS := t.hidS })

/-- STORE (R219, R234), word 0xA0: while BUSY = 1, `DOUT[i] <- HID.S[i mod 4][i div 4]`, BUSY falls and DONE rises in the
same step; DIN, KEY, ERR and ERR_CAUSE stay as they are. STORE is the last micro-op of both micro-programs, and stands nowhere else in them.
Nothing is said of the hidden registers, which are unspecified from then on. -/
def Obligations.StoreCompletesOperation : Prop :=
  decodeUop 0xA0#8 = .ok .store ∧
  (∀ s : State, s.busy = true → ∃ t, exec .store s = .next t ∧
    (∀ i : Fin 16, t.dout.get i = s.hidS.entry ⟨i.val % 4, by omega⟩ ⟨i.val / 4, by omega⟩) ∧
    t.busy = false ∧ t.done = true ∧ t.err = s.err ∧ t.errCause = s.errCause ∧ t.din = s.din ∧ t.key = s.key ∧
    t.turns = s.turns ∧ t.returned = s.returned) ∧
  (∀ (op : OpSel) (n : UopIndex), decodeUop (uopAt op n) = .ok .store ↔ n.val = 52)

/-! ## Tables, field and transforms -/

/-- The two S-boxes are inverse permutations of the bytes (R133). -/
def Obligations.SboxesAreInverse : Prop :=
  (∀ b : Byte, invSbox (sbox b) = b) ∧ (∀ b : Byte, sbox (invSbox b) = b) ∧ sbox (sbox 0x00#8) = 0xfb#8

/-- The forward S-box equals its generator at every entry (R134): `SBOX[b] = A(y)` with `y` the multiplicative inverse of
`b`, the inverse of 0 taken as 0. -/
def Obligations.SboxEqualsItsGenerator : Prop :=
  ∀ b : Byte, ∃ y : Byte, (b = 0x00#8 → y = 0x00#8) ∧ (b ≠ 0x00#8 → gfMul b y = 0x01#8) ∧ sbox b = affineMap y

/-- The round constants are the powers of x (R132). -/
def Obligations.RconIsPowersOfTwo : Prop :=
  rcon.get 0 = 0x01#8 ∧ ∀ j : Fin 9, rcon.get j.succ = xtime (rcon.get j.castSucc)

/-- The products the core uses are those of the field, and each distributes over the sum (R151, R152). -/
def Obligations.ConstantProductsAreLinear : Prop :=
  (∀ x : Byte, xtime x = gfMul 2#8 x ∧ mul2 x = gfMul 2#8 x ∧ mul3 x = gfMul 3#8 x ∧ mul9 x = gfMul 9#8 x ∧
    mul11 x = gfMul 11#8 x ∧ mul13 x = gfMul 13#8 x ∧ mul14 x = gfMul 14#8 x) ∧
  (∀ m x y : Byte, gfMul m (x ^^^ y) = gfMul m x ^^^ gfMul m y)

/-- Each transform and its inverse undo each other, in both orders, on every state (R160). -/
def Obligations.TransformsAreInversePairs : Prop :=
  ∀ s : Mat,
    invSubBytes (subBytes s) = s ∧ subBytes (invSubBytes s) = s ∧
    invShiftRows (shiftRows s) = s ∧ shiftRows (invShiftRows s) = s ∧
    invMixColumns (mixColumns s) = s ∧ mixColumns (invMixColumns s) = s

/-- AddRoundKey twice with one key cancels (R161). -/
def Obligations.AddRoundKeyIsSelfInverse : Prop := ∀ s k : Mat, addRoundKey (addRoundKey s k) k = s

/-- SubBytes and ShiftRows commute, and so do their inverses; AddRoundKey and InvMixColumns do not: for the zero state and
the key whose only non-zero byte is `k[0][0] = 0x01` the two orders give the blocks R162 names. -/
def Obligations.CommutationOfTransforms : Prop :=
  (∀ s : Mat, subBytes (shiftRows s) = shiftRows (subBytes s)) ∧
  (∀ s : Mat, invSubBytes (invShiftRows s) = invShiftRows (invSubBytes s)) ∧
  (∀ s k : Mat, (∀ r c, s.entry r c = 0x00#8) →
    (∀ r c, k.entry r c = if r = 0 ∧ c = 0 then 0x01#8 else 0x00#8) →
    store (invMixColumns (addRoundKey s k)) =
      #v[0x0e, 0x09, 0x0d, 0x0b, 0x00, 0x00, 0x00, 0x00, 0x00, 0x00, 0x00, 0x00, 0x00, 0x00, 0x00, 0x00] ∧
    store (addRoundKey (invMixColumns s) k) =
      #v[0x01, 0x00, 0x00, 0x00, 0x00, 0x00, 0x00, 0x00, 0x00, 0x00, 0x00, 0x00, 0x00, 0x00, 0x00, 0x00])

/-- The word form of the schedule (R185): with `w[m] = [W[4m] .. W[4m+3]]`, the first four words are the key's, and each later
one is the word four places before it XOR the word before it, which at every fourth place is first rotated, substituted
and given its round constant. -/
def Obligations.KeyExpansionWordForm : Prop :=
  ∀ (key : Block) (w : Fin 44 → Fin 4 → Byte),
    (∀ m u, w m u = (keyExpansion key).byte ⟨4 * m.val + u.val, by omega⟩) →
    (∀ (m : Fin 4) (u : Fin 4), w ⟨m.val, by omega⟩ u = key.get ⟨4 * m.val + u.val, by omega⟩) ∧
    (∀ (m : Fin 44) (hm : 4 ≤ m.val) (u : Fin 4),
      (m.val % 4 ≠ 0 → w m u = w ⟨m.val - 4, by omega⟩ u ^^^ w ⟨m.val - 1, by omega⟩ u) ∧
      (m.val % 4 = 0 → w m u =
        w ⟨m.val - 4, by omega⟩ u ^^^ sbox (w ⟨m.val - 1, by omega⟩ (u + 1)) ^^^
          (if u = 0 then rcon.get ⟨m.val / 4 - 1, by omega⟩ else 0x00#8)))

/-- Encrypting and then decrypting with one key gives the block back, and so does decrypting and then encrypting (R208). -/
def Obligations.CipherRoundTrip : Prop :=
  ∀ b key : Block, invCipher (cipher b key) key = b ∧ cipher (invCipher b key) key = b

/-- The FIPS-197 Appendix B block and key give the expected ciphertext (the example of R205), and decrypting that gives the
block (the example of R206). -/
def Obligations.CipherOnFipsVector : Prop :=
  let input : Block := #v[0x32, 0x43, 0xf6, 0xa8, 0x88, 0x5a, 0x30, 0x8d, 0x31, 0x31, 0x98, 0xa2, 0xe0, 0x37, 0x07, 0x34]
  let key : Block := #v[0x2b, 0x7e, 0x15, 0x16, 0x28, 0xae, 0xd2, 0xa6, 0xab, 0xf7, 0x15, 0x88, 0x09, 0xcf, 0x4f, 0x3c]
  let output : Block := #v[0x39, 0x25, 0x84, 0x1d, 0x02, 0xdc, 0x09, 0xfb, 0xdc, 0x11, 0x85, 0x97, 0x19, 0x6a, 0x0b, 0x32]
  cipher input key = output ∧ invCipher output key = input

/-! ## Steps -/

/-- A step that takes a byte written to CMD runs the command the byte decodes to, the turn having been taken. -/
def Obligations.StepRunsDecodedCommand : Prop :=
  ∀ (s : State) (rest : List Turn) (v : Byte) (i : Instr),
    s.turns = .transfer (.write 0x30#6 v) :: rest → decodeCommand v = .ok i → step s = exec i { s with turns := rest }

/-- While BUSY = 1 a step that takes a micro-op turn, or has no turn pending, runs the micro-op that the word at UPC of the
running micro-program decodes to; the sequencer has then moved on to the next word of the listing. That
the core goes on by itself when no turn is pending, the last clause, is the model's choice (log 3, log 8). What ROUND holds
is a free value (log 6). -/
def Obligations.StepRunsDecodedMicroOp : Prop :=
  ∀ (s : State) (i : Instr), s.busy = true → decodeUop (uopAt s.hidOpsel s.hidUpc) = .ok i →
    (∀ rest, s.turns = .microOp :: rest → step s = exec i { s with
      turns := rest, hidUpc := s.hidUpc + 1
      hidRound := Config.freeRound s.freeIdx, freeIdx := s.freeIdx + 1 }) ∧
    (s.turns = [] → step s = exec i { s with
      hidUpc := s.hidUpc + 1, hidRound := Config.freeRound s.freeIdx, freeIdx := s.freeIdx + 1 })

/-- An instruction of the table, placed at any state, is what the next step decodes and runs: a command runs on the state
with its write made, a micro-op on the state its word was fetched from (log 3). -/
def Obligations.PlacedWordIsRunNext : Prop :=
  ∀ (s : State) (i : Instr), i.wellFormed = true →
    (i.isCommand = true → step (s.withFetchWord 8 (encodeByte i).toNat) = exec i s) ∧
    (i.isCommand = false → ∃ (op : OpSel) (n : UopIndex), uopAt op n = encodeByte i ∧
      step (s.withFetchWord 8 (encodeByte i).toNat) =
        exec i (advance { s with busy := true, hidOpsel := op, hidUpc := n }))

/-- A step is refused only for a host access that is not one byte wide or not inside the window (R240). -/
def Obligations.StepRefusesOnlyForeignAccesses : Prop :=
  ∀ (s : State) (r : Refusal), step s = .refused r → ∃ a, nextTurn s = .access a ∧ (Turn.access a).transfer? = none

/-! ## Invariants -/

/-- At most one of BUSY, DONE and ERR is 1 after every step from such a state (R41), so STATUS reads 0, 1, 2 or 4. -/
def Obligations.StepKeepsStatusOneHot : Prop :=
  ∀ s t : State, StatusOneHot s → step s = .next t →
    StatusOneHot t ∧ statusByte t ∈ [0x00#8, 0x01#8, 0x02#8, 0x04#8]

/-- ERR_CAUSE is NONE unless ERR = 1 and then one of the two codes, after every step from such a state (R42, R253). -/
def Obligations.StepKeepsErrorReportLegal : Prop :=
  ∀ s t : State, ErrorReportLegal s → step s = .next t → ErrorReportLegal t

/-- Whatever turns the agents take in between, an operation in flight stays on its way to Cipher or InvCipher of the operands
captured at its acceptance (R200, R222, R231): from every state in which this holds, it holds after every step. -/
def Obligations.StepKeepsInFlightResultRight : Prop :=
  ∀ s t : State, InFlightRight s → step s = .next t → InFlightRight t

/-- The three invariants hold right after reset. -/
def Obligations.ResetMeetsInvariants : Prop :=
  StatusOneHot State.reset ∧ ErrorReportLegal State.reset ∧ InFlightRight State.reset

/-! ## Whole-machine rules -/

/-- BUSY rises only by a byte written to CMD that decodes to an operation with every buffer present, and falls only by a turn
of the core that completes the operation, or by reset; while BUSY = 1 a byte written to CMD changes nothing (R38). -/
def Obligations.BusyChangesOnlyByStartOrEnd : Prop :=
  ∀ s t : State, step s = .next t →
    (s.busy = false → t.busy = true →
      ∃ v op, (nextTurn s).writeAt? 0x30#6 = some v ∧ commandClass v = .run op) ∧
    (s.busy = true → t.busy = false →
      nextTurn s = .completion ∨ (nextTurn s = .microOp ∧ fetchUop s = 0xA0#8) ∨ nextTurn s = .reset) ∧
    (s.busy = true → (nextTurn s).writeAt? 0x30#6 ≠ none → t = turnTaken s)

/-- DONE rises only by a completion; it falls by any byte written to CMD while BUSY = 0 and by reset, and by nothing else
(R39). -/
def Obligations.DoneChangesOnlyByCompletionOrAcceptance : Prop :=
  ∀ s t : State, step s = .next t →
    (s.done = false → t.done = true →
      s.busy = true ∧ t.busy = false ∧ (nextTurn s = .completion ∨ (nextTurn s = .microOp ∧ fetchUop s = 0xA0#8))) ∧
    (s.done = true → t.done = false →
      (s.busy = false ∧ ∃ v, (nextTurn s).writeAt? 0x30#6 = some v) ∨ nextTurn s = .reset) ∧
    (s.busy = false → (nextTurn s).writeAt? 0x30#6 ≠ none → t.done = false) ∧
    (nextTurn s = .reset → t.done = false)

/-- ERR rises only by a byte written to CMD while BUSY = 0 that is illegal or names an operation with a buffer absent. It
falls only by a byte written to CMD while BUSY = 0 or by reset; after such a byte it is 1 exactly when that byte is itself in
error, and after reset it is 0 (R40). -/
def Obligations.ErrChangesOnlyByAcceptance : Prop :=
  ∀ s t : State, step s = .next t →
    (s.err = false → t.err = true →
      s.busy = false ∧ ∃ v, (nextTurn s).writeAt? 0x30#6 = some v ∧ ∀ op, commandClass v ≠ .run op) ∧
    (s.err = true → t.err = false →
      (s.busy = false ∧ ∃ v, (nextTurn s).writeAt? 0x30#6 = some v) ∨ nextTurn s = .reset) ∧
    (∀ v, s.busy = false → (nextTurn s).writeAt? 0x30#6 = some v →
      (t.err = true ↔ ∀ op, commandClass v ≠ .run op)) ∧
    (nextTurn s = .reset → t.err = false)

/-- DOUT is written only by the completion of an operation, together with BUSY and DONE, or by reset (R35). -/
def Obligations.DoutChangesOnlyByCompletion : Prop :=
  ∀ s t : State, step s = .next t → t.dout ≠ s.dout →
    (s.busy = true ∧ t.busy = false ∧ t.done = true ∧
      (nextTurn s = .completion ∨ (nextTurn s = .microOp ∧ fetchUop s = 0xA0#8))) ∨
    nextTurn s = .reset

/-- The core never writes DIN or KEY: a byte of one of them changes only to the byte a host write brings to its offset, or
by reset (R33, R34). -/
def Obligations.DinAndKeyChangeOnlyByHostWrite : Prop :=
  ∀ s t : State, step s = .next t → nextTurn s ≠ .reset → ∀ i : Fin 16,
    t.din.get i = ((nextTurn s).writeAt? (BitVec.ofNat 6 i.val)).getD (s.din.get i) ∧
    t.key.get i = ((nextTurn s).writeAt? (BitVec.ofNat 6 (0x10 + i.val))).getD (s.key.get i)

/-- The captured operands and the selected operation of an operation in flight change only when it ends (R43, R231): while
BUSY stays 1, no step changes them. -/
def Obligations.CapturedOperandsStayWhileBusy : Prop :=
  ∀ s t : State, step s = .next t → s.busy = true → t.busy = true →
    t.hidOpsel = s.hidOpsel ∧ t.hidSin = s.hidSin ∧ t.hidSkey = s.hidSkey

/-- A completed result stays: once DONE = 1 (and so BUSY = 0), DOUT and DONE stay through every step but a write to CMD and
a reset (R84). -/
def Obligations.CompletedResultStaysReadable : Prop :=
  ∀ s t : State, step s = .next t → s.done = true → s.busy = false →
    (nextTurn s).writeAt? 0x30#6 = none → nextTurn s ≠ .reset → t.done = true ∧ t.dout = s.dout

/-- The encrypt micro-program computes Cipher of the captured operands and the decrypt micro-program InvCipher (R222): run
from its first word by 53 steps, it completes with that result in DOUT and changes nothing else a host can see. That the
core goes on by itself when no turn is pending, one micro-op a step, is the model's choice (log 3, log 7, log 8). -/
def Obligations.MicroProgramComputesCipher : Prop :=
  ∀ s : State, s.busy = true → s.hidUpc = 0 → s.turns = [] →
    ∃ t, Sys2Proof.core.run 53 s = .next t ∧
      (s.hidOpsel = .enc → t.dout = cipher s.hidSin s.hidSkey) ∧
      (s.hidOpsel = .dec → t.dout = invCipher s.hidSin s.hidSkey) ∧
      t.busy = false ∧ t.done = true ∧ t.err = s.err ∧ t.errCause = s.errCause ∧
      t.din = s.din ∧ t.key = s.key ∧ t.returned = s.returned

/-- An operation in flight completes (R235): with no other turn pending, after at most 53 steps BUSY = 0 and DONE = 1. The
number is that of the reference micro-program and no bound on time. That the core goes on by itself when no turn is
pending, one micro-op a step, is the model's choice (log 3, log 7, log 8). -/
def Obligations.OperationCompletes : Prop :=
  ∀ s : State, s.busy = true → s.turns = [] →
    ∃ n t, n ≤ 53 ∧ Sys2Proof.core.run n s = .next t ∧ t.busy = false ∧ t.done = true
end

