-- ==== Sys2Proof/Laws/Data.lean ====
section
/-! SUPPORT. Element access of blocks, matrices and schedules, and what each transform puts at an element: later proofs cite
these and never unfold a tabulation. -/

namespace Sys2Proof

/-! ## Matrices -/

@[simp] theorem Mat.entry_build (f : Fin 4 → Fin 4 → Byte) (r c : Fin 4) : (Mat.build f).entry r c = f r c := by
  simp [Mat.entry, Mat.build, Vector.get_eq_getElem]

/-- Two matrices with the same elements are equal. -/
theorem Mat.ext_entry {a b : Mat} (h : ∀ r c, a.entry r c = b.entry r c) : a = b := by
  obtain ⟨a⟩ := a
  obtain ⟨b⟩ := b
  congr
  refine Vector.ext fun i hi => Vector.ext fun j hj => ?_
  simpa [Mat.entry, Vector.get_eq_getElem] using h ⟨i, hi⟩ ⟨j, hj⟩

/-- A matrix is the one built from its elements. -/
@[simp] theorem Mat.build_entry (a : Mat) : Mat.build a.entry = a := Mat.ext_entry fun r c => by simp

@[simp] theorem Mat.zero_entry (r c : Fin 4) : Mat.zero.entry r c = 0#8 := by simp [Mat.zero]

/-! ## Vectors by their `get` -/

/-- Two vectors with the same elements are equal. -/
theorem vector_ext_get {α : Type} {n : Nat} {a b : Vector α n} (h : ∀ i, a.get i = b.get i) : a = b :=
  Vector.ext fun i hi => by simpa [Vector.get_eq_getElem] using h ⟨i, hi⟩

@[simp] theorem vector_get_ofFn {α : Type} {n : Nat} (f : Fin n → α) (i : Fin n) : (Vector.ofFn f).get i = f i := by
  simp [Vector.get_eq_getElem]

theorem vector_get_set {α : Type} {n : Nat} (v : Vector α n) (i : Nat) (h : i < n) (x : α) (j : Fin n) :
    (v.set i x).get j = if i = j.val then x else v.get j := by
  simp only [Vector.get_eq_getElem]
  rw [Vector.getElem_set]

@[simp] theorem Block.zero_get (i : Fin 16) : Block.zero.get i = 0#8 := by
  simp [Block.zero, Vector.get_eq_getElem]

namespace Machine

/-! ## Blocks and matrices (R11, R12) -/

@[simp] theorem load_entry (b : Block) (r c : Fin 4) : (load b).entry r c = b.get ⟨r.val + 4 * c.val, by omega⟩ := by
  simp [load]

@[simp] theorem store_get (s : Mat) (i : Fin 16) :
    (store s).get i = s.entry ⟨i.val % 4, by omega⟩ ⟨i.val / 4, by omega⟩ := by simp [store]

/-- `store(load(b)) = b`. -/
@[simp] theorem store_load (b : Block) : store (load b) = b := by
  refine vector_ext_get fun i => ?_
  simp only [store_get, load_entry]
  congr 1
  ext
  simp only
  omega

/-- `load(store(s)) = s`. -/
@[simp] theorem load_store (s : Mat) : load (store s) = s := by
  refine Mat.ext_entry fun r c => ?_
  simp only [load_entry, store_get]
  congr 1 <;> (ext; simp only; omega)

@[simp] theorem roundKey_entry (w : Schedule) (k : RoundIndex) (r c : Fin 4) :
    (roundKey w k).entry r c = (w.get k).get ⟨r.val + 4 * c.val, by omega⟩ := by simp [roundKey]

/-! ## Transforms, element by element (R153 to R159) -/

@[simp] theorem addRoundKey_entry (s k : Mat) (r c : Fin 4) :
    (addRoundKey s k).entry r c = s.entry r c ^^^ k.entry r c := by simp [addRoundKey]

@[simp] theorem subBytes_entry (s : Mat) (r c : Fin 4) : (subBytes s).entry r c = sbox (s.entry r c) := by simp [subBytes]

@[simp] theorem invSubBytes_entry (s : Mat) (r c : Fin 4) : (invSubBytes s).entry r c = invSbox (s.entry r c) := by
  simp [invSubBytes]

@[simp] theorem shiftRows_entry (s : Mat) (r c : Fin 4) : (shiftRows s).entry r c = s.entry r (c + r) := by
  simp [shiftRows]

@[simp] theorem invShiftRows_entry (s : Mat) (r c : Fin 4) : (invShiftRows s).entry r c = s.entry r (c - r) := by
  simp [invShiftRows]

@[simp] theorem column_get (s : Mat) (r c : Fin 4) : (column s c).get r = s.entry r c := by simp [column]

@[simp] theorem mixColumns_entry (s : Mat) (r c : Fin 4) :
    (mixColumns s).entry r c = (mixColumn (column s c)).get r := by simp [mixColumns]

@[simp] theorem invMixColumns_entry (s : Mat) (r c : Fin 4) :
    (invMixColumns s).entry r c = (invMixColumn (column s c)).get r := by simp [invMixColumns]

/-- A column of MixColumns is the mixer's image of that column. -/
@[simp] theorem column_mixColumns (s : Mat) (c : Fin 4) : column (mixColumns s) c = mixColumn (column s c) :=
  vector_ext_get fun r => by simp

/-- A column of InvMixColumns is the inverse mixer's image of that column. -/
@[simp] theorem column_invMixColumns (s : Mat) (c : Fin 4) : column (invMixColumns s) c = invMixColumn (column s c) :=
  vector_ext_get fun r => by simp

/-! ## The key schedule (R183) -/

@[simp] theorem group_get (p : Block) (g t : Fin 4) : (group p g).get t = p.get ⟨4 * g.val + t.val, by omega⟩ := by
  simp [group]

/-- Round key 0 is the key verbatim. -/
theorem expandInto_zero (key : Block) (w : Schedule) : expandInto 0 key w = w.set 0 key := rfl

/-- A later round key is computed from the one before it. -/
theorem expandInto_succ (j : Fin 10) (key : Block) (w : Schedule) :
    expandInto j.succ key w = w.set (j.val + 1) (nextRoundKey j (w.get j.castSucc)) := rfl

/-- KEXP leaves every other round key alone. -/
theorem expandInto_other (k j : RoundIndex) (key : Block) (w : Schedule) (h : j ≠ k) :
    (expandInto k key w).get j = w.get j := by
  have hv : k.val ≠ j.val := fun e => h (Fin.ext e.symm)
  unfold expandInto
  split
  · rw [vector_get_set, if_neg (by omega)]
  · rw [vector_get_set, if_neg hv]

end Machine

end Sys2Proof
end

