-- ==== Sys2Proof/Laws/Field.lean ====
section
/-! SUPPORT. The field arithmetic of the column mixer: doubling and the products by the constants are additive. -/

namespace Sys2Proof.Machine

/-- Doubling is additive. -/
theorem xtime_xor (x y : Byte) : xtime (x ^^^ y) = xtime x ^^^ xtime y := by
  unfold xtime
  rw [BitVec.shiftLeft_xor_distrib, BitVec.getLsbD_xor]
  cases x.getLsbD 7 <;> cases y.getLsbD 7
  · simp
  · simp; ac_rfl
  · simp; ac_rfl
  · have h : x <<< 1 ^^^ 27#8 ^^^ (y <<< 1 ^^^ 27#8) = (x <<< 1 ^^^ y <<< 1) ^^^ (27#8 ^^^ 27#8) := by ac_rfl
    simp only [Bool.xor_self, if_true]
    rw [h]
    simp

theorem mul2_xor (x y : Byte) : mul2 (x ^^^ y) = mul2 x ^^^ mul2 y := xtime_xor x y

theorem mul3_xor (x y : Byte) : mul3 (x ^^^ y) = mul3 x ^^^ mul3 y := by simp only [mul3, xtime_xor]; ac_rfl

theorem mul9_xor (x y : Byte) : mul9 (x ^^^ y) = mul9 x ^^^ mul9 y := by simp only [mul9, xtime_xor]; ac_rfl

theorem mul11_xor (x y : Byte) : mul11 (x ^^^ y) = mul11 x ^^^ mul11 y := by simp only [mul11, xtime_xor]; ac_rfl

theorem mul13_xor (x y : Byte) : mul13 (x ^^^ y) = mul13 x ^^^ mul13 y := by simp only [mul13, xtime_xor]; ac_rfl

theorem mul14_xor (x y : Byte) : mul14 (x ^^^ y) = mul14 x ^^^ mul14 y := by simp only [mul14, xtime_xor]; ac_rfl

end Sys2Proof.Machine
end

