-- ==== Sys2Proof/Laws/State.lean ====
section
/-! SUPPORT. One lemma per field of State per named update, so that no proof unfolds a record update. -/

namespace Sys2Proof.Machine

/-! ## Acceptance clears the report. -/

section
variable (s : State)
@[simp] theorem clearReport_din : (clearReport s).din = s.din := rfl
@[simp] theorem clearReport_key : (clearReport s).key = s.key := rfl
@[simp] theorem clearReport_dout : (clearReport s).dout = s.dout := rfl
@[simp] theorem clearReport_busy : (clearReport s).busy = s.busy := rfl
@[simp] theorem clearReport_done : (clearReport s).done = false := rfl
@[simp] theorem clearReport_err : (clearReport s).err = false := rfl
@[simp] theorem clearReport_errCause : (clearReport s).errCause = causeNone := rfl
@[simp] theorem clearReport_hidOpsel : (clearReport s).hidOpsel = s.hidOpsel := rfl
@[simp] theorem clearReport_hidSin : (clearReport s).hidSin = s.hidSin := rfl
@[simp] theorem clearReport_hidSkey : (clearReport s).hidSkey = s.hidSkey := rfl
@[simp] theorem clearReport_hidS : (clearReport s).hidS = s.hidS := rfl
@[simp] theorem clearReport_hidW : (clearReport s).hidW = s.hidW := rfl
@[simp] theorem clearReport_hidRound : (clearReport s).hidRound = s.hidRound := rfl
@[simp] theorem clearReport_hidUpc : (clearReport s).hidUpc = s.hidUpc := rfl
@[simp] theorem clearReport_turns : (clearReport s).turns = s.turns := rfl
@[simp] theorem clearReport_returned : (clearReport s).returned = s.returned := rfl
@[simp] theorem clearReport_freeIdx : (clearReport s).freeIdx = s.freeIdx := rfl
end

/-! ## BUSY is set. -/

section
variable (s : State)
@[simp] theorem setBusy_din : (setBusy s).din = s.din := rfl
@[simp] theorem setBusy_key : (setBusy s).key = s.key := rfl
@[simp] theorem setBusy_dout : (setBusy s).dout = s.dout := rfl
@[simp] theorem setBusy_busy : (setBusy s).busy = true := rfl
@[simp] theorem setBusy_done : (setBusy s).done = s.done := rfl
@[simp] theorem setBusy_err : (setBusy s).err = s.err := rfl
@[simp] theorem setBusy_errCause : (setBusy s).errCause = s.errCause := rfl
@[simp] theorem setBusy_hidOpsel : (setBusy s).hidOpsel = s.hidOpsel := rfl
@[simp] theorem setBusy_hidSin : (setBusy s).hidSin = s.hidSin := rfl
@[simp] theorem setBusy_hidSkey : (setBusy s).hidSkey = s.hidSkey := rfl
@[simp] theorem setBusy_hidS : (setBusy s).hidS = s.hidS := rfl
@[simp] theorem setBusy_hidW : (setBusy s).hidW = s.hidW := rfl
@[simp] theorem setBusy_hidRound : (setBusy s).hidRound = s.hidRound := rfl
@[simp] theorem setBusy_hidUpc : (setBusy s).hidUpc = s.hidUpc := rfl
@[simp] theorem setBusy_turns : (setBusy s).turns = s.turns := rfl
@[simp] theorem setBusy_returned : (setBusy s).returned = s.returned := rfl
@[simp] theorem setBusy_freeIdx : (setBusy s).freeIdx = s.freeIdx := rfl
end

/-! ## BUSY falls and DONE rises. -/

section
variable (s : State)
@[simp] theorem setDone_din : (setDone s).din = s.din := rfl
@[simp] theorem setDone_key : (setDone s).key = s.key := rfl
@[simp] theorem setDone_dout : (setDone s).dout = s.dout := rfl
@[simp] theorem setDone_busy : (setDone s).busy = false := rfl
@[simp] theorem setDone_done : (setDone s).done = true := rfl
@[simp] theorem setDone_err : (setDone s).err = s.err := rfl
@[simp] theorem setDone_errCause : (setDone s).errCause = s.errCause := rfl
@[simp] theorem setDone_hidOpsel : (setDone s).hidOpsel = s.hidOpsel := rfl
@[simp] theorem setDone_hidSin : (setDone s).hidSin = s.hidSin := rfl
@[simp] theorem setDone_hidSkey : (setDone s).hidSkey = s.hidSkey := rfl
@[simp] theorem setDone_hidS : (setDone s).hidS = s.hidS := rfl
@[simp] theorem setDone_hidW : (setDone s).hidW = s.hidW := rfl
@[simp] theorem setDone_hidRound : (setDone s).hidRound = s.hidRound := rfl
@[simp] theorem setDone_hidUpc : (setDone s).hidUpc = s.hidUpc := rfl
@[simp] theorem setDone_turns : (setDone s).turns = s.turns := rfl
@[simp] theorem setDone_returned : (setDone s).returned = s.returned := rfl
@[simp] theorem setDone_freeIdx : (setDone s).freeIdx = s.freeIdx := rfl
end

/-! ## Operand capture. -/

section
variable (op : OpSel) (s : State)
@[simp] theorem captureOperands_din : (captureOperands op s).din = s.din := rfl
@[simp] theorem captureOperands_key : (captureOperands op s).key = s.key := rfl
@[simp] theorem captureOperands_dout : (captureOperands op s).dout = s.dout := rfl
@[simp] theorem captureOperands_busy : (captureOperands op s).busy = s.busy := rfl
@[simp] theorem captureOperands_done : (captureOperands op s).done = s.done := rfl
@[simp] theorem captureOperands_err : (captureOperands op s).err = s.err := rfl
@[simp] theorem captureOperands_errCause : (captureOperands op s).errCause = s.errCause := rfl
@[simp] theorem captureOperands_hidOpsel : (captureOperands op s).hidOpsel = op := rfl
@[simp] theorem captureOperands_hidSin : (captureOperands op s).hidSin = s.din := rfl
@[simp] theorem captureOperands_hidSkey : (captureOperands op s).hidSkey = s.key := rfl
@[simp] theorem captureOperands_hidS : (captureOperands op s).hidS = s.hidS := rfl
@[simp] theorem captureOperands_hidW : (captureOperands op s).hidW = s.hidW := rfl
@[simp] theorem captureOperands_hidRound : (captureOperands op s).hidRound = s.hidRound := rfl
@[simp] theorem captureOperands_hidUpc : (captureOperands op s).hidUpc = s.hidUpc := rfl
@[simp] theorem captureOperands_turns : (captureOperands op s).turns = s.turns := rfl
@[simp] theorem captureOperands_returned : (captureOperands op s).returned = s.returned := rfl
@[simp] theorem captureOperands_freeIdx : (captureOperands op s).freeIdx = s.freeIdx := rfl
end

/-! ## Raising an error. -/

section
variable (code : Byte) (s : State)
@[simp] theorem raiseError_din : (raiseError code s).din = s.din := rfl
@[simp] theorem raiseError_key : (raiseError code s).key = s.key := rfl
@[simp] theorem raiseError_dout : (raiseError code s).dout = s.dout := rfl
@[simp] theorem raiseError_busy : (raiseError code s).busy = s.busy := rfl
@[simp] theorem raiseError_done : (raiseError code s).done = s.done := rfl
@[simp] theorem raiseError_err : (raiseError code s).err = true := rfl
@[simp] theorem raiseError_errCause : (raiseError code s).errCause = code := rfl
@[simp] theorem raiseError_hidOpsel : (raiseError code s).hidOpsel = s.hidOpsel := rfl
@[simp] theorem raiseError_hidSin : (raiseError code s).hidSin = s.hidSin := rfl
@[simp] theorem raiseError_hidSkey : (raiseError code s).hidSkey = s.hidSkey := rfl
@[simp] theorem raiseError_hidS : (raiseError code s).hidS = s.hidS := rfl
@[simp] theorem raiseError_hidW : (raiseError code s).hidW = s.hidW := rfl
@[simp] theorem raiseError_hidRound : (raiseError code s).hidRound = s.hidRound := rfl
@[simp] theorem raiseError_hidUpc : (raiseError code s).hidUpc = s.hidUpc := rfl
@[simp] theorem raiseError_turns : (raiseError code s).turns = s.turns := rfl
@[simp] theorem raiseError_returned : (raiseError code s).returned = s.returned := rfl
@[simp] theorem raiseError_freeIdx : (raiseError code s).freeIdx = s.freeIdx := rfl
end

/-! ## Starting an operation. -/

section
variable (op : OpSel) (s : State)
@[simp] theorem start_din : (start op s).din = s.din := rfl
@[simp] theorem start_key : (start op s).key = s.key := rfl
@[simp] theorem start_dout : (start op s).dout = s.dout := rfl
@[simp] theorem start_busy : (start op s).busy = true := rfl
@[simp] theorem start_done : (start op s).done = s.done := rfl
@[simp] theorem start_err : (start op s).err = s.err := rfl
@[simp] theorem start_errCause : (start op s).errCause = s.errCause := rfl
@[simp] theorem start_hidOpsel : (start op s).hidOpsel = op := rfl
@[simp] theorem start_hidSin : (start op s).hidSin = s.din := rfl
@[simp] theorem start_hidSkey : (start op s).hidSkey = s.key := rfl
@[simp] theorem start_hidS : (start op s).hidS = s.hidS := rfl
@[simp] theorem start_hidW : (start op s).hidW = s.hidW := rfl
@[simp] theorem start_hidRound : (start op s).hidRound = s.hidRound := rfl
@[simp] theorem start_hidUpc : (start op s).hidUpc = 0 := rfl
@[simp] theorem start_turns : (start op s).turns = s.turns := rfl
@[simp] theorem start_returned : (start op s).returned = s.returned := rfl
@[simp] theorem start_freeIdx : (start op s).freeIdx = s.freeIdx := rfl
end

/-! ## The hidden registers take free values. -/

section
variable (s : State)
@[simp] theorem unspecifyHidden_din : (unspecifyHidden s).din = s.din := rfl
@[simp] theorem unspecifyHidden_key : (unspecifyHidden s).key = s.key := rfl
@[simp] theorem unspecifyHidden_dout : (unspecifyHidden s).dout = s.dout := rfl
@[simp] theorem unspecifyHidden_busy : (unspecifyHidden s).busy = s.busy := rfl
@[simp] theorem unspecifyHidden_done : (unspecifyHidden s).done = s.done := rfl
@[simp] theorem unspecifyHidden_err : (unspecifyHidden s).err = s.err := rfl
@[simp] theorem unspecifyHidden_errCause : (unspecifyHidden s).errCause = s.errCause := rfl
@[simp] theorem unspecifyHidden_hidOpsel : (unspecifyHidden s).hidOpsel = Config.freeOpsel s.freeIdx := rfl
@[simp] theorem unspecifyHidden_hidSin : (unspecifyHidden s).hidSin = Config.freeSin s.freeIdx := rfl
@[simp] theorem unspecifyHidden_hidSkey : (unspecifyHidden s).hidSkey = Config.freeSkey s.freeIdx := rfl
@[simp] theorem unspecifyHidden_hidS : (unspecifyHidden s).hidS = Config.freeMat s.freeIdx := rfl
@[simp] theorem unspecifyHidden_hidW : (unspecifyHidden s).hidW = Config.freeSched s.freeIdx := rfl
@[simp] theorem unspecifyHidden_hidRound : (unspecifyHidden s).hidRound = Config.freeRound s.freeIdx := rfl
@[simp] theorem unspecifyHidden_hidUpc : (unspecifyHidden s).hidUpc = Config.freeUpc s.freeIdx := rfl
@[simp] theorem unspecifyHidden_turns : (unspecifyHidden s).turns = s.turns := rfl
@[simp] theorem unspecifyHidden_returned : (unspecifyHidden s).returned = s.returned := rfl
@[simp] theorem unspecifyHidden_freeIdx : (unspecifyHidden s).freeIdx = s.freeIdx + 1 := rfl
end

/-! ## Reset. -/

section
variable (s : State)
@[simp] theorem resetStep_din : (resetStep s).din = Block.zero := rfl
@[simp] theorem resetStep_key : (resetStep s).key = Block.zero := rfl
@[simp] theorem resetStep_dout : (resetStep s).dout = Block.zero := rfl
@[simp] theorem resetStep_busy : (resetStep s).busy = false := rfl
@[simp] theorem resetStep_done : (resetStep s).done = false := rfl
@[simp] theorem resetStep_err : (resetStep s).err = false := rfl
@[simp] theorem resetStep_errCause : (resetStep s).errCause = causeNone := rfl
@[simp] theorem resetStep_hidOpsel : (resetStep s).hidOpsel = Config.freeOpsel s.freeIdx := rfl
@[simp] theorem resetStep_hidSin : (resetStep s).hidSin = Config.freeSin s.freeIdx := rfl
@[simp] theorem resetStep_hidSkey : (resetStep s).hidSkey = Config.freeSkey s.freeIdx := rfl
@[simp] theorem resetStep_hidS : (resetStep s).hidS = Config.freeMat s.freeIdx := rfl
@[simp] theorem resetStep_hidW : (resetStep s).hidW = Config.freeSched s.freeIdx := rfl
@[simp] theorem resetStep_hidRound : (resetStep s).hidRound = Config.freeRound s.freeIdx := rfl
@[simp] theorem resetStep_hidUpc : (resetStep s).hidUpc = Config.freeUpc s.freeIdx := rfl
@[simp] theorem resetStep_turns : (resetStep s).turns = s.turns := rfl
@[simp] theorem resetStep_returned : (resetStep s).returned = s.returned := rfl
@[simp] theorem resetStep_freeIdx : (resetStep s).freeIdx = s.freeIdx + 1 := rfl
end

/-! ## The sequencer moves on. -/

section
variable (s : State)
@[simp] theorem advance_din : (advance s).din = s.din := rfl
@[simp] theorem advance_key : (advance s).key = s.key := rfl
@[simp] theorem advance_dout : (advance s).dout = s.dout := rfl
@[simp] theorem advance_busy : (advance s).busy = s.busy := rfl
@[simp] theorem advance_done : (advance s).done = s.done := rfl
@[simp] theorem advance_err : (advance s).err = s.err := rfl
@[simp] theorem advance_errCause : (advance s).errCause = s.errCause := rfl
@[simp] theorem advance_hidOpsel : (advance s).hidOpsel = s.hidOpsel := rfl
@[simp] theorem advance_hidSin : (advance s).hidSin = s.hidSin := rfl
@[simp] theorem advance_hidSkey : (advance s).hidSkey = s.hidSkey := rfl
@[simp] theorem advance_hidS : (advance s).hidS = s.hidS := rfl
@[simp] theorem advance_hidW : (advance s).hidW = s.hidW := rfl
@[simp] theorem advance_hidRound : (advance s).hidRound = Config.freeRound s.freeIdx := rfl
@[simp] theorem advance_hidUpc : (advance s).hidUpc = s.hidUpc + 1 := rfl
@[simp] theorem advance_turns : (advance s).turns = s.turns := rfl
@[simp] theorem advance_returned : (advance s).returned = s.returned := rfl
@[simp] theorem advance_freeIdx : (advance s).freeIdx = s.freeIdx + 1 := rfl
end

/-! ## A read returns a byte. -/

section
variable (b : Byte) (s : State)
@[simp] theorem returnByte_din : (returnByte b s).din = s.din := rfl
@[simp] theorem returnByte_key : (returnByte b s).key = s.key := rfl
@[simp] theorem returnByte_dout : (returnByte b s).dout = s.dout := rfl
@[simp] theorem returnByte_busy : (returnByte b s).busy = s.busy := rfl
@[simp] theorem returnByte_done : (returnByte b s).done = s.done := rfl
@[simp] theorem returnByte_err : (returnByte b s).err = s.err := rfl
@[simp] theorem returnByte_errCause : (returnByte b s).errCause = s.errCause := rfl
@[simp] theorem returnByte_hidOpsel : (returnByte b s).hidOpsel = s.hidOpsel := rfl
@[simp] theorem returnByte_hidSin : (returnByte b s).hidSin = s.hidSin := rfl
@[simp] theorem returnByte_hidSkey : (returnByte b s).hidSkey = s.hidSkey := rfl
@[simp] theorem returnByte_hidS : (returnByte b s).hidS = s.hidS := rfl
@[simp] theorem returnByte_hidW : (returnByte b s).hidW = s.hidW := rfl
@[simp] theorem returnByte_hidRound : (returnByte b s).hidRound = s.hidRound := rfl
@[simp] theorem returnByte_hidUpc : (returnByte b s).hidUpc = s.hidUpc := rfl
@[simp] theorem returnByte_turns : (returnByte b s).turns = s.turns := rfl
@[simp] theorem returnByte_returned : (returnByte b s).returned = b :: s.returned := rfl
@[simp] theorem returnByte_freeIdx : (returnByte b s).freeIdx = s.freeIdx := rfl
end

/-! ## The state matrix is transformed in place. -/

section
variable (f : Mat → Mat) (s : State)
@[simp] theorem onS_din : (onS f s).din = s.din := rfl
@[simp] theorem onS_key : (onS f s).key = s.key := rfl
@[simp] theorem onS_dout : (onS f s).dout = s.dout := rfl
@[simp] theorem onS_busy : (onS f s).busy = s.busy := rfl
@[simp] theorem onS_done : (onS f s).done = s.done := rfl
@[simp] theorem onS_err : (onS f s).err = s.err := rfl
@[simp] theorem onS_errCause : (onS f s).errCause = s.errCause := rfl
@[simp] theorem onS_hidOpsel : (onS f s).hidOpsel = s.hidOpsel := rfl
@[simp] theorem onS_hidSin : (onS f s).hidSin = s.hidSin := rfl
@[simp] theorem onS_hidSkey : (onS f s).hidSkey = s.hidSkey := rfl
@[simp] theorem onS_hidS : (onS f s).hidS = f s.hidS := rfl
@[simp] theorem onS_hidW : (onS f s).hidW = s.hidW := rfl
@[simp] theorem onS_hidRound : (onS f s).hidRound = s.hidRound := rfl
@[simp] theorem onS_hidUpc : (onS f s).hidUpc = s.hidUpc := rfl
@[simp] theorem onS_turns : (onS f s).turns = s.turns := rfl
@[simp] theorem onS_returned : (onS f s).returned = s.returned := rfl
@[simp] theorem onS_freeIdx : (onS f s).freeIdx = s.freeIdx := rfl
end

/-! ## A turn is taken off the list. -/

section
variable (s : State)
@[simp] theorem turnTaken_din : (turnTaken s).din = s.din := rfl
@[simp] theorem turnTaken_key : (turnTaken s).key = s.key := rfl
@[simp] theorem turnTaken_dout : (turnTaken s).dout = s.dout := rfl
@[simp] theorem turnTaken_busy : (turnTaken s).busy = s.busy := rfl
@[simp] theorem turnTaken_done : (turnTaken s).done = s.done := rfl
@[simp] theorem turnTaken_err : (turnTaken s).err = s.err := rfl
@[simp] theorem turnTaken_errCause : (turnTaken s).errCause = s.errCause := rfl
@[simp] theorem turnTaken_hidOpsel : (turnTaken s).hidOpsel = s.hidOpsel := rfl
@[simp] theorem turnTaken_hidSin : (turnTaken s).hidSin = s.hidSin := rfl
@[simp] theorem turnTaken_hidSkey : (turnTaken s).hidSkey = s.hidSkey := rfl
@[simp] theorem turnTaken_hidS : (turnTaken s).hidS = s.hidS := rfl
@[simp] theorem turnTaken_hidW : (turnTaken s).hidW = s.hidW := rfl
@[simp] theorem turnTaken_hidRound : (turnTaken s).hidRound = s.hidRound := rfl
@[simp] theorem turnTaken_hidUpc : (turnTaken s).hidUpc = s.hidUpc := rfl
@[simp] theorem turnTaken_turns : (turnTaken s).turns = s.turns.tail := rfl
@[simp] theorem turnTaken_returned : (turnTaken s).returned = s.returned := rfl
@[simp] theorem turnTaken_freeIdx : (turnTaken s).freeIdx = s.freeIdx := rfl
end

/-! ## A host write at an offset other than CMD -/

section
variable (off : BitVec 6) (v : Byte) (s : State)

/-- A host write at an offset in 0x00..0x0F stores into DIN. -/
theorem writeOffset_din_range (h : off.toNat < 0x10) :
    writeOffset off v s = { s with din := s.din.set off.toNat v } := by simp [writeOffset, h]

/-- A host write at an offset in 0x10..0x1F stores into KEY. -/
theorem writeOffset_key_range (h : 0x10 ≤ off.toNat) (h' : off.toNat < 0x20) :
    writeOffset off v s = { s with key := s.key.set (off.toNat - 0x10) v } := by
  simp [writeOffset, h', Nat.not_lt.mpr h]

/-- A host write at any higher offset stores nothing. -/
theorem writeOffset_ignored (h : 0x20 ≤ off.toNat) : writeOffset off v s = s := by
  have h' : ¬ off.toNat < 0x10 := by omega
  simp [writeOffset, Nat.not_lt.mpr h, h']

/-- A host write at an offset other than CMD changes DIN or KEY only. -/
theorem writeOffset_eq :
    writeOffset off v s = { s with din := (writeOffset off v s).din, key := (writeOffset off v s).key } := by
  unfold writeOffset; split <;> (try split) <;> rfl

@[simp] theorem writeOffset_dout : (writeOffset off v s).dout = s.dout := by rw [writeOffset_eq]
@[simp] theorem writeOffset_busy : (writeOffset off v s).busy = s.busy := by rw [writeOffset_eq]
@[simp] theorem writeOffset_done : (writeOffset off v s).done = s.done := by rw [writeOffset_eq]
@[simp] theorem writeOffset_err : (writeOffset off v s).err = s.err := by rw [writeOffset_eq]
@[simp] theorem writeOffset_errCause : (writeOffset off v s).errCause = s.errCause := by rw [writeOffset_eq]
@[simp] theorem writeOffset_hidOpsel : (writeOffset off v s).hidOpsel = s.hidOpsel := by rw [writeOffset_eq]
@[simp] theorem writeOffset_hidSin : (writeOffset off v s).hidSin = s.hidSin := by rw [writeOffset_eq]
@[simp] theorem writeOffset_hidSkey : (writeOffset off v s).hidSkey = s.hidSkey := by rw [writeOffset_eq]
@[simp] theorem writeOffset_hidS : (writeOffset off v s).hidS = s.hidS := by rw [writeOffset_eq]
@[simp] theorem writeOffset_hidW : (writeOffset off v s).hidW = s.hidW := by rw [writeOffset_eq]
@[simp] theorem writeOffset_hidRound : (writeOffset off v s).hidRound = s.hidRound := by rw [writeOffset_eq]
@[simp] theorem writeOffset_hidUpc : (writeOffset off v s).hidUpc = s.hidUpc := by rw [writeOffset_eq]
@[simp] theorem writeOffset_turns : (writeOffset off v s).turns = s.turns := by rw [writeOffset_eq]
@[simp] theorem writeOffset_returned : (writeOffset off v s).returned = s.returned := by rw [writeOffset_eq]
@[simp] theorem writeOffset_freeIdx : (writeOffset off v s).freeIdx = s.freeIdx := by rw [writeOffset_eq]
end

end Sys2Proof.Machine
end

