-- ==== Sys2Proof/Laws/Ops.lean ====
section
/-! SUPPORT. What each shared operation, each meaning and each turn can do, said once; proofs cite these and do not unfold. -/

namespace Sys2Proof.Machine

/-! ## Acceptance and completion -/

/-- While BUSY = 1 a command write changes nothing. -/
theorem accept_busy (act : State → State) {s : State} (h : s.busy = true) : accept act s = s := by simp [accept, h]

/-- While BUSY = 0 the report is cleared and the command acts. -/
theorem accept_idle (act : State → State) {s : State} (h : s.busy = false) : accept act s = act (clearReport s) := by
  simp [accept, h]

/-- With every buffer present the operation starts. -/
theorem commandEffect_present (op : OpSel) {i k o : Bool} (h : allPresent i k o = true) (s : State) :
    commandEffect op i k o s = start op s := by simp [commandEffect, h]

/-- With a buffer absent INVALID_ARGUMENT is raised. -/
theorem commandEffect_absent (op : OpSel) {i k o : Bool} (h : allPresent i k o = false) (s : State) :
    commandEffect op i k o s = raiseError causeInvalidArgument s := by simp [commandEffect, h]

/-- While BUSY = 1 the completion step is enabled. -/
theorem completeWith_busy (b : Block) {s : State} (h : s.busy = true) :
    completeWith b s = unspecifyHidden (setDone { s with dout := b }) := by simp [completeWith, h]

/-- While BUSY = 0 the completion step is not enabled. -/
theorem completeWith_idle (b : Block) {s : State} (h : s.busy = false) : completeWith b s = s := by
  simp [completeWith, h]

/-- What an accepted command can do to a state: nothing, an error report, or a start. -/
theorem accept_command_cases (op : OpSel) (i k o : Bool) (s : State) :
    (s.busy = true ∧ accept (commandEffect op i k o) s = s) ∨
    (s.busy = false ∧ allPresent i k o = true ∧ accept (commandEffect op i k o) s = start op (clearReport s)) ∨
    (s.busy = false ∧ allPresent i k o = false ∧
      accept (commandEffect op i k o) s = raiseError causeInvalidArgument (clearReport s)) := by
  cases hb : s.busy
  · cases hp : allPresent i k o
    · exact .inr (.inr ⟨rfl, rfl, by rw [accept_idle _ hb, commandEffect_absent _ hp]⟩)
    · exact .inr (.inl ⟨rfl, rfl, by rw [accept_idle _ hb, commandEffect_present _ hp]⟩)
  · exact .inl ⟨rfl, accept_busy _ hb⟩

/-! ## Round operands -/

/-- A round index is its own operand. -/
theorem roundOperand_some {k : BitVec 4} (h : k.toNat < 11) : roundOperand k = some ⟨k.toNat, h⟩ := by
  simp [roundOperand, h]

/-- A field above 10 names no round. -/
theorem roundOperand_none {k : BitVec 4} (h : ¬ k.toNat < 11) : roundOperand k = none := by simp [roundOperand, h]

/-! ## What a micro-op can do -/

/-- A micro-op that answers a next state has changed `HID.S` and `HID.W` only, or it was STORE. -/
theorem exec_uop_cases {i : Instr} (hi : i.isCommand = false) {s t : State} (h : exec i s = .next t) :
    (∃ m w, t = { s with hidS := m, hidW := w }) ∨ (i = .store ∧ t = completeWith (store s.hidS) s) := by
  cases i with
  | encrypt => cases hi
  | decrypt => cases hi
  | loads => cases h; exact .inl ⟨_, _, rfl⟩
  | kexp k =>
    simp only [exec, execKexp] at h
    split at h
    · cases h; exact .inl ⟨_, _, rfl⟩
    · cases h
  | ark k =>
    simp only [exec, execArk] at h
    split at h
    · cases h; exact .inl ⟨_, _, rfl⟩
    · cases h
  | sb => cases h; exact .inl ⟨_, _, rfl⟩
  | isb => cases h; exact .inl ⟨_, _, rfl⟩
  | sr => cases h; exact .inl ⟨_, _, rfl⟩
  | isr => cases h; exact .inl ⟨_, _, rfl⟩
  | mc => cases h; exact .inl ⟨_, _, rfl⟩
  | imc => cases h; exact .inl ⟨_, _, rfl⟩
  | store => cases h; exact .inr ⟨rfl, rfl⟩

/-- A command always answers a next state. -/
theorem exec_encrypt (i k o : Bool) (s : State) :
    exec (.encrypt i k o) s = .next (accept (commandEffect .enc i k o) s) := rfl

theorem exec_decrypt (i k o : Bool) (s : State) :
    exec (.decrypt i k o) s = .next (accept (commandEffect .dec i k o) s) := rfl

/-! ## What a byte written to CMD can do -/

/-- A byte decodes to a command or is illegal. -/
theorem decodeCommand_cases (v : Byte) :
    (∃ i k o, decodeCommand v = .ok (.encrypt i k o)) ∨ (∃ i k o, decodeCommand v = .ok (.decrypt i k o)) ∨
    decodeCommand v = .error (.illegalCommand v) := by
  unfold decodeCommand
  split
  · exact .inr (.inr rfl)
  · split
    · exact .inl ⟨_, _, _, rfl⟩
    · split
      · exact .inr (.inl ⟨_, _, _, rfl⟩)
      · exact .inr (.inr rfl)

/-- A byte written to CMD is ignored, starts an operation, or leaves an error report. -/
theorem writeCommand_cases (v : Byte) (s : State) :
    (s.busy = true ∧ writeCommand v s = .next s) ∨
    (s.busy = false ∧ ∃ op, commandClass v = .run op ∧ writeCommand v s = .next (start op (clearReport s))) ∨
    (s.busy = false ∧ (∃ op, commandClass v = .absent op) ∧
      writeCommand v s = .next (raiseError causeInvalidArgument (clearReport s))) ∨
    (s.busy = false ∧ commandClass v = .illegal ∧
      writeCommand v s = .next (raiseError causeIllegalCommand (clearReport s))) := by
  obtain ⟨i, k, o, h⟩ | ⟨i, k, o, h⟩ | h := decodeCommand_cases v
  · have hw : writeCommand v s = .next (accept (commandEffect .enc i k o) s) := by simp [writeCommand, h, exec_encrypt]
    have hc : commandClass v = classOf .enc i k o := by simp [commandClass, h]
    obtain ⟨hb, e⟩ | ⟨hb, hp, e⟩ | ⟨hb, hp, e⟩ := accept_command_cases .enc i k o s
    · exact .inl ⟨hb, by rw [hw, e]⟩
    · exact .inr (.inl ⟨hb, .enc, by simp [hc, classOf, hp], by rw [hw, e]⟩)
    · exact .inr (.inr (.inl ⟨hb, ⟨.enc, by simp [hc, classOf, hp]⟩, by rw [hw, e]⟩))
  · have hw : writeCommand v s = .next (accept (commandEffect .dec i k o) s) := by simp [writeCommand, h, exec_decrypt]
    have hc : commandClass v = classOf .dec i k o := by simp [commandClass, h]
    obtain ⟨hb, e⟩ | ⟨hb, hp, e⟩ | ⟨hb, hp, e⟩ := accept_command_cases .dec i k o s
    · exact .inl ⟨hb, by rw [hw, e]⟩
    · exact .inr (.inl ⟨hb, .dec, by simp [hc, classOf, hp], by rw [hw, e]⟩)
    · exact .inr (.inr (.inl ⟨hb, ⟨.dec, by simp [hc, classOf, hp]⟩, by rw [hw, e]⟩))
  · have hw : writeCommand v s = .next (illegalCommand s) := by simp [writeCommand, h]
    cases hb : s.busy
    · exact .inr (.inr (.inr ⟨rfl, by simp [commandClass, h], by rw [hw, illegalCommand, accept_idle _ hb]⟩))
    · exact .inl ⟨rfl, by rw [hw, illegalCommand, accept_busy _ hb]⟩

/-! ## What a transfer can do -/

/-- Everything a transfer that answers a next state can have done. -/
theorem runTransfer_cases {t : Transfer} {s u : State} (h : runTransfer t s = .next u) :
    (∃ off, t = .read off ∧ u = returnByte (readOffset off s) s) ∨
    (∃ off v, t = .write off v ∧ off ≠ cmdOffset ∧ u = writeOffset off v s) ∨
    (∃ v, t = .write cmdOffset v ∧ writeCommand v s = .next u) := by
  cases t with
  | read off => cases h; exact .inl ⟨off, rfl, rfl⟩
  | write off v =>
    simp only [runTransfer] at h
    split at h
    · rename_i hc; subst hc; exact .inr (.inr ⟨v, rfl, h⟩)
    · rename_i hc; cases h; exact .inr (.inl ⟨off, v, rfl, hc, rfl⟩)

/-- A host access that reaches the port is its transfer; any other is refused. -/
theorem takeTurn_access (a : Access) (s : State) :
    (∃ t, (Turn.access a).transfer? = some t ∧ takeTurn (.access a) s = runTransfer t s) ∨
    ((Turn.access a).transfer? = none ∧ ∃ r, takeTurn (.access a) s = .refused r) := by
  cases a with
  | memRead addr width =>
    by_cases hw : width = 1
    · by_cases hi : inWindow addr = true
      · exact .inl ⟨.read (offsetOf addr), by simp [Turn.transfer?, hw, hi],
          by simp [takeTurn, platformAccess, selectAccess, hw, hi]⟩
      · exact .inr ⟨by simp [Turn.transfer?, hi], _, by simp [takeTurn, platformAccess, selectAccess, hw, hi]; rfl⟩
    · exact .inr ⟨by simp [Turn.transfer?, hw], _, by simp [takeTurn, platformAccess, selectAccess, hw]; rfl⟩
  | memWrite addr width v =>
    by_cases hw : width = 1
    · by_cases hi : inWindow addr = true
      · exact .inl ⟨.write (offsetOf addr) v, by simp [Turn.transfer?, hw, hi],
          by simp [takeTurn, platformAccess, selectAccess, hw, hi]⟩
      · exact .inr ⟨by simp [Turn.transfer?, hi], _, by simp [takeTurn, platformAccess, selectAccess, hw, hi]; rfl⟩
    · exact .inr ⟨by simp [Turn.transfer?, hw], _, by simp [takeTurn, platformAccess, selectAccess, hw]; rfl⟩

/-! ## Steps -/

/-- A step takes the next turn. -/
theorem step_eq_takeTurn (s : State) : step s = takeTurn (nextTurn s) (turnTaken s) := by
  obtain ⟨_, _, _, _, _, _, _, _, _, _, _, _, _, _, turns, _, _⟩ := s
  cases turns <;> rfl

/-- Every word of a micro-program decodes, to a well-formed micro-op. -/
theorem uopAt_decodes (op : OpSel) (n : UopIndex) :
    ∃ i, decodeUop (uopAt op n) = .ok i ∧ i.isCommand = false ∧ i.wellFormed = true := by
  have h : ∀ op n, (match decodeUop (uopAt op n) with
      | .ok i => (!i.isCommand && i.wellFormed) | .error _ => false) = true := by
    intro op; cases op <;> decide +kernel
  have := h op n
  split at this
  · rename_i i hi; simp only [Bool.and_eq_true, Bool.not_eq_true'] at this; exact ⟨i, hi, this⟩
  · cases this

/-- Everything a micro-op turn can have done: it always answers a next state. -/
theorem microStep_cases (s : State) :
    (s.busy = false ∧ microStep s = .next s) ∨
    (s.busy = true ∧ ∃ m w, microStep s = .next { advance s with hidS := m, hidW := w }) ∨
    (s.busy = true ∧ fetchUop s = 0xA0#8 ∧
      microStep s = .next (unspecifyHidden (setDone { advance s with dout := store s.hidS }))) := by
  cases hb : s.busy with
  | false => exact .inl ⟨rfl, by simp [microStep, hb]⟩
  | true =>
    obtain ⟨i, hd, hc, hw⟩ := uopAt_decodes s.hidOpsel s.hidUpc
    have hm : microStep s = exec i (advance s) := by simp [microStep, hb, runUopWord, fetchUop, hd]
    have hnext : ∃ t, exec i (advance s) = .next t := by
      cases i with
      | kexp k =>
        have hk : k.toNat < 11 := by simp [Instr.wellFormed, isRoundIndex] at hw; omega
        exact ⟨_, by simp [exec, execKexp, roundOperand_some hk]; rfl⟩
      | ark k =>
        have hk : k.toNat < 11 := by simp [Instr.wellFormed, isRoundIndex] at hw; omega
        exact ⟨_, by simp [exec, execArk, roundOperand_some hk]; rfl⟩
      | _ => exact ⟨_, rfl⟩
    obtain ⟨t, ht⟩ := hnext
    obtain ⟨m, w, rfl⟩ | ⟨rfl, rfl⟩ := exec_uop_cases hc ht
    · exact .inr (.inl ⟨rfl, m, w, by rw [hm, ht]⟩)
    · refine .inr (.inr ⟨rfl, ?_, ?_⟩)
      · have : ∀ w : Byte, decodeUop w = .ok .store → w = 0xA0#8 := by decide +kernel
        exact this _ hd
      · rw [hm, ht, completeWith_busy _ (by simpa using hb)]; rfl

end Sys2Proof.Machine
end

