-- ==== Sys2Proof/Laws/PerInstr.lean ====
section
/-! SUPPORT. Facts about every instruction as syntax, one lemma per constructor of Instr. -/

namespace Sys2Proof.Laws.TableRow

/-- The encoder writes a byte of the instruction's own row of spec/opcode_table.json, and no other row of the table admits
that byte. -/
def Statement (i : Instr) : Prop :=
  i.wellFormed = true → opcodeRows.filter (fun r => r.admits (encodeByte i)) = [i.row]

theorem encrypt (inP keyP outP : Bool) : Statement (.encrypt inP keyP outP) := by
  intro _; revert inP keyP outP; decide

theorem decrypt (inP keyP outP : Bool) : Statement (.decrypt inP keyP outP) := by
  intro _; revert inP keyP outP; decide

theorem loads : Statement .loads := by intro _; decide

theorem kexp (k : BitVec 4) : Statement (.kexp k) := by
  unfold Statement; revert k; decide

theorem ark (k : BitVec 4) : Statement (.ark k) := by
  unfold Statement; revert k; decide

theorem sb : Statement .sb := by intro _; decide

theorem isb : Statement .isb := by intro _; decide

theorem sr : Statement .sr := by intro _; decide

theorem isr : Statement .isr := by intro _; decide

theorem mc : Statement .mc := by intro _; decide

theorem imc : Statement .imc := by intro _; decide

theorem store : Statement .store := by intro _; decide

end Sys2Proof.Laws.TableRow
end

