-- ==== Sys2Proof/Laws/Step.lean ====
section
/-! SUPPORT. What one step can do, said once: every invariant and every rule about the whole machine is derived from
`step_cases` and the inversion lemmas it hands on to. -/

namespace Sys2Proof.Machine

/-! ## What each kind of turn can have done -/

/-- A micro-op turn: the idle core does nothing; otherwise a micro-op changes the datapath, or STORE completes. -/
theorem microStep_inv {s t : State} (h : microStep s = .next t) :
    (s.busy = false ∧ t = s) ∨
    (s.busy = true ∧ ∃ m w, t = { advance s with hidS := m, hidW := w }) ∨
    (s.busy = true ∧ fetchUop s = 0xA0#8 ∧ t = unspecifyHidden (setDone { advance s with dout := store s.hidS })) := by
  obtain ⟨a, e⟩ | ⟨a, m, w, e⟩ | ⟨a, b, e⟩ := microStep_cases s <;> rw [e] at h <;> cases h
  · exact .inl ⟨a, rfl⟩
  · exact .inr (.inl ⟨a, m, w, rfl⟩)
  · exact .inr (.inr ⟨a, b, rfl⟩)

/-- A completion turn: nothing while idle, else the result is in DOUT. -/
theorem complete_cases (s : State) :
    (s.busy = false ∧ complete s = s) ∨
    (s.busy = true ∧ complete s = unspecifyHidden (setDone { s with dout := operationResult s })) := by
  cases hb : s.busy with
  | false => exact .inl ⟨rfl, completeWith_idle _ hb⟩
  | true => exact .inr ⟨rfl, by rw [complete, completeWith_busy _ hb, hb]⟩

/-- A byte written to CMD: ignored, an operation starts, or an error is reported. -/
theorem writeCommand_inv {v : Byte} {s t : State} (h : writeCommand v s = .next t) :
    (s.busy = true ∧ t = s) ∨
    (s.busy = false ∧ ∃ op, commandClass v = .run op ∧ t = start op (clearReport s)) ∨
    (s.busy = false ∧ (∀ op, commandClass v ≠ .run op) ∧
      ∃ c, (c = causeInvalidArgument ∨ c = causeIllegalCommand) ∧ t = raiseError c (clearReport s)) := by
  obtain ⟨a, e⟩ | ⟨a, op, b, e⟩ | ⟨a, ⟨op, b⟩, e⟩ | ⟨a, b, e⟩ := writeCommand_cases v s <;> rw [e] at h <;> cases h
  · exact .inl ⟨a, rfl⟩
  · exact .inr (.inl ⟨a, op, b, rfl⟩)
  · exact .inr (.inr ⟨a, by simp [b], _, .inl rfl, rfl⟩)
  · exact .inr (.inr ⟨a, by simp [b], _, .inr rfl, rfl⟩)

/-! ## A step -/

/-- Everything a step that answers a next state can have done. -/
theorem step_cases {s t : State} (h : step s = .next t) :
    (∃ off, (nextTurn s).transfer? = some (.read off) ∧ t = returnByte (readOffset off (turnTaken s)) (turnTaken s)) ∨
    (∃ off v, (nextTurn s).transfer? = some (.write off v) ∧ off ≠ cmdOffset ∧ t = writeOffset off v (turnTaken s)) ∨
    (∃ v, (nextTurn s).transfer? = some (.write cmdOffset v) ∧ writeCommand v (turnTaken s) = .next t) ∨
    (nextTurn s = .microOp ∧ microStep (turnTaken s) = .next t) ∨
    (nextTurn s = .completion ∧ t = complete (turnTaken s)) ∨
    (nextTurn s = .reset ∧ t = resetStep (turnTaken s)) := by
  rw [step_eq_takeTurn] at h
  have byTransfer : ∀ x, runTransfer x (turnTaken s) = .next t →
      (∃ off, some x = some (.read off) ∧ t = returnByte (readOffset off (turnTaken s)) (turnTaken s)) ∨
      (∃ off v, some x = some (.write off v) ∧ off ≠ cmdOffset ∧ t = writeOffset off v (turnTaken s)) ∨
      (∃ v, some x = some (.write cmdOffset v) ∧ writeCommand v (turnTaken s) = .next t) := by
    intro x hr
    obtain ⟨off, rfl, e⟩ | ⟨off, v, rfl, hc, e⟩ | ⟨v, rfl, e⟩ := runTransfer_cases hr
    · exact .inl ⟨off, rfl, e⟩
    · exact .inr (.inl ⟨off, v, rfl, hc, e⟩)
    · exact .inr (.inr ⟨v, rfl, e⟩)
  cases hn : nextTurn s with
  | transfer x =>
    rw [hn] at h
    obtain h | h | h := byTransfer x h
    exacts [.inl h, .inr (.inl h), .inr (.inr (.inl h))]
  | access a =>
    rw [hn] at h
    obtain ⟨x, hx, e⟩ | ⟨_, r, e⟩ := takeTurn_access a (turnTaken s)
    · rw [e] at h
      rw [hx]
      obtain h | h | h := byTransfer x h
      exacts [.inl h, .inr (.inl h), .inr (.inr (.inl h))]
    · rw [e] at h; cases h
  | microOp => rw [hn] at h; exact .inr (.inr (.inr (.inl ⟨rfl, h⟩)))
  | completion => rw [hn] at h; cases h; exact .inr (.inr (.inr (.inr (.inl ⟨rfl, rfl⟩))))
  | reset => rw [hn] at h; cases h; exact .inr (.inr (.inr (.inr (.inr ⟨rfl, rfl⟩))))

/-- A micro-op turn always answers a next state. -/
theorem microStep_next (s : State) : ∃ t, microStep s = .next t := by
  obtain ⟨_, e⟩ | ⟨_, _, _, e⟩ | ⟨_, _, e⟩ := microStep_cases s <;> exact ⟨_, e⟩

/-- A transfer always answers a next state. -/
theorem runTransfer_next (x : Transfer) (s : State) : ∃ t, runTransfer x s = .next t := by
  cases x with
  | read off => exact ⟨_, rfl⟩
  | write off v =>
    simp only [runTransfer]
    split
    · obtain ⟨_, e⟩ | ⟨_, _, _, e⟩ | ⟨_, _, e⟩ | ⟨_, _, e⟩ := writeCommand_cases v s <;> exact ⟨_, e⟩
    · exact ⟨_, rfl⟩

/-- A run that has ended stays as it is. -/
theorem step_of_runEnded {s : State} (h : RunEnded s) : step s = .next s := by
  simp [step, h.1, microStep, h.2]

/-! ## Runs -/

/-- A run of one step more. -/
theorem run_next (M : Host.Core) {n : Nat} {s t : M.State} (h : M.step s = .next t) : M.run (n + 1) s = M.run n t := by
  simp [Host.Core.run, h]

/-- With no turn pending a run of the machine is the core's own micro-op turns. -/
theorem run_of_microSteps {n : Nat} {s t : State} (hs : s.turns = []) (h : microSteps n s = .next t) :
    Sys2Proof.core.run n s = .next t := by
  induction n generalizing s with
  | zero => exact h
  | succ n ih =>
    obtain ⟨u, hu⟩ := microStep_next s
    have hstep : Sys2Proof.core.step s = .next u := by
      show step s = .next u
      rw [step, hs]; exact hu
    have hut : u.turns = [] := by
      obtain ⟨_, rfl⟩ | ⟨_, m, w, rfl⟩ | ⟨_, _, rfl⟩ := microStep_inv hu <;> simpa using hs
    rw [microSteps, hu] at h
    exact (run_next _ hstep).trans (ih hut h)

end Sys2Proof.Machine
end

