-- ==== Sys2Proof/Machine/HostSyntax.lean ====
section
/-! DEFINITION. The port fields of a transfer (30_encoding.md R101) and the notation of host programs and micro-programs
(R113 to R115). A host program is a list of turns; the core itself runs none (10_state.md R30). -/

namespace Sys2Proof.Machine

/-! ## Port fields (R101) -/

/-- The fields the host drives in a transfer; `rdata`, which the core drives, is `readOffset`. -/
structure PortFields where
  /-- 1 = write, 0 = read. -/
  we : Bool
  /-- The window offset. -/
  addr : BitVec 6
  /-- The byte written; it carries nothing in a read. -/
  wdata : Byte
  deriving DecidableEq, Repr

/-- The transfer the port fields stand for. -/
def PortFields.transfer (p : PortFields) : Transfer := if p.we then .write p.addr p.wdata else .read p.addr

/-! ## Host programs (R113, R114) -/

/-- `WR off, v`. -/
def wr (off : BitVec 6) (v : Byte) : Turn := .transfer (.write off v)

/-- `RD off`. -/
def rd (off : BitVec 6) : Turn := .transfer (.read off)

/-- `WRBLK base, b0 .. b15`: ascending order (R114). DESIGN CHOICE (assumption log 17): the offset `base + i` is taken in 6
bits, so with a base above 0x30 it goes on from the window's start; R114 does not say what such a line expands to. -/
def wrBlk (base : BitVec 6) (b : Block) : List Turn :=
  (List.finRange 16).map fun i => wr (base + BitVec.ofNat 6 i.val) (b.get i)

/-- `RDBLK base`: ascending order (R114). DESIGN CHOICE (assumption log 17): `base + i` is taken in 6 bits, as in `wrBlk`. -/
def rdBlk (base : BitVec 6) : List Turn := (List.finRange 16).map fun i => rd (base + BitVec.ofNat 6 i.val)

/-- `SETIN b0 .. b15`. -/
def setIn (b : Block) : List Turn := wrBlk 0x00#6 b

/-- `SETKEY b0 .. b15`. -/
def setKey (b : Block) : List Turn := wrBlk 0x10#6 b

/-- `GETOUT`. -/
def getOut : List Turn := rdBlk 0x20#6

/-- `ENC`. -/
def enc : List Turn := [wr 0x30#6 0x1D#8]

/-- `DEC`. -/
def dec : List Turn := [wr 0x30#6 0x1E#8]

/-- `WAIT` reads STATUS again and again until the value read has bit 0 = 0. The loop is the host's own; one pass of it is
this read, and `waitOver` is the host's test of the value. -/
def waitRead : Turn := rd 0x31#6

/-- The value a pass of `WAIT` read ends the loop: BUSY = 0. -/
def waitOver (status : Byte) : Bool := !status.getLsbD 0

/-! ## Written forms (R113, R115) -/

/-- A hexadecimal digit. -/
def hexDigit (n : BitVec 4) : Char := ("0123456789ABCDEF".toList)[n.toNat]?.getD '0'

/-- A byte as two hexadecimal digits. -/
def hexByte (b : Byte) : List Char := [hexDigit (b.extractLsb' 4 4), hexDigit (b.extractLsb' 0 4)]

/-- The encoding of a line: `W oo vv` or `R oo` (R113). -/
def Transfer.text : Transfer → List Char
  | .read off => ['R', ' '] ++ hexByte (off.setWidth 8)
  | .write off v => ['W', ' '] ++ hexByte (off.setWidth 8) ++ [' '] ++ hexByte v

/-- A round index in decimal: 0..15 fit the field. -/
def decimal (k : BitVec 4) : List Char := (Nat.toDigits 10 k.toNat)

/-- A micro-op as its mnemonic, for KEXP and ARK followed by the round index in decimal (R115); a command as its
mnemonic (R104). -/
def mnemonicText : Instr → List Char
  | .encrypt _ _ _ => "ENCRYPT".toList
  | .decrypt _ _ _ => "DECRYPT".toList
  | .loads => "LOADS".toList
  | .kexp k => "KEXP ".toList ++ decimal k
  | .ark k => "ARK ".toList ++ decimal k
  | .sb => "SB".toList
  | .isb => "ISB".toList
  | .sr => "SR".toList
  | .isr => "ISR".toList
  | .mc => "MC".toList
  | .imc => "IMC".toList
  | .store => "STORE".toList

end Sys2Proof.Machine
end

