-- ==== Sys2Proof/Tests/Slice0.lean ====
section
/-! SUPPORT. The model's own tests and, after them, a witness for every statement that has hypotheses. The expected values
are those of spec/: the file and rule or table they come from stands over each group. -/

namespace Sys2Proof.Tests

open Sys2Proof.Machine

/-! ## Helpers -/

/-- A block written as 32 hexadecimal digits, byte 0 first (R10). -/
def blk (x : BitVec 128) : Block := Vector.ofFn fun i => x.extractLsb' (8 * (15 - i.val)) 8

/-- A state with its matrix loaded from a block. -/
def withS (x : BitVec 128) : State := { State.reset with hidS := load (blk x) }

/-- The matrix an outcome leaves, as a block. -/
def sAfter : Result → Option Block
  | .next t => some (store t.hidS)
  | _ => none

/-- A round key an outcome leaves. -/
def keyAfter (k : RoundIndex) : Result → Option Block
  | .next t => some (t.hidW.get k)
  | _ => none

/-- The state with one turn to take. -/
def turn (t : Turn) (s : State) : State := { s with turns := [t] }

/-- The state with a byte to be written to CMD. -/
def cmd (v : Byte) (s : State) : State := turn (wr 0x30#6 v) s

/-- What a host reads after a step: STATUS, ERR_CAUSE and DOUT. -/
def seen : Result → Option (Byte × Byte × Block)
  | .next t => some (statusByte t, t.errCause, t.dout)
  | _ => none

/-- STATUS and ERR_CAUSE after a step. -/
def report : Result → Option (Byte × Byte)
  | .next t => some (statusByte t, t.errCause)
  | _ => none

/-- The byte a step returned to the host. -/
def readBack : Result → Option Byte
  | .next t => t.returned.head?
  | _ => none

/-- What a step answers holds of the state it answers. -/
def nextHolds (r : Result) (p : State → Bool) : Bool :=
  match r with
  | .next t => p t
  | _ => false

/-- A state with an operation in flight: the block of FIPS-197 Appendix C.1 (44_commands.md R236, R237) and its key. -/
def busyEnc : State :=
  { State.reset with
    busy := true
    hidOpsel := .enc
    hidSin := blk 0x00112233445566778899aabbccddeeff#128
    hidSkey := blk 0x000102030405060708090a0b0c0d0e0f#128 }

def busyDec : State :=
  { State.reset with
    busy := true
    hidOpsel := .dec
    hidSin := blk 0x69c4e0d86a7b0430d8cdb78070b4c55a#128
    hidSkey := blk 0x000102030405060708090a0b0c0d0e0f#128 }

/-- A completed state, and a state in error. -/
def doneState : State := { State.reset with done := true, dout := blk 0x69c4e0d86a7b0430d8cdb78070b4c55a#128 }

def errState : State := { State.reset with err := true, errCause := 0x01#8 }

/-- A state whose DIN, KEY and DOUT hold `00 01 .. 0f`, `10 11 .. 1f` and `20 21 .. 2f`. -/
def filled : State :=
  { State.reset with
    din := blk 0x000102030405060708090a0b0c0d0e0f#128
    key := blk 0x101112131415161718191a1b1c1d1e1f#128
    dout := blk 0x202122232425262728292a2b2c2d2e2f#128 }

/-! ## Well-formedness: an ill-formed term for each check -/

theorem test_kexp_11_ill_formed : (Instr.kexp 11#4).wellFormed = false := by decide
theorem test_kexp_10_well_formed : (Instr.kexp 10#4).wellFormed = true := by decide
theorem test_ark_15_ill_formed : (Instr.ark 15#4).wellFormed = false := by decide
theorem test_ark_0_well_formed : (Instr.ark 0#4).wellFormed = true := by decide

/-! ## Decoding, words written out from 30_encoding.md R103, R104 (`RSV OUT_P KEY_P IN_P OP`) and R110, R111 (`UOP RND`) -/

theorem test_decode_encrypt : decodeByte 0b00011101#8 = .ok (.encrypt true true true) := by decide
theorem test_decode_encrypt_no_input : decodeByte 0b00011001#8 = .ok (.encrypt false true true) := by decide
theorem test_decode_decrypt : decodeByte 0b00011110#8 = .ok (.decrypt true true true) := by decide
theorem test_decode_decrypt_no_key : decodeByte 0b00010110#8 = .ok (.decrypt true false true) := by decide
theorem test_decode_loads : decodeByte 0b00010000#8 = .ok .loads := by decide
theorem test_decode_kexp_7 : decodeByte 0b00100111#8 = .ok (.kexp 7#4) := by decide
theorem test_decode_ark_10 : decodeByte 0b00111010#8 = .ok (.ark 10#4) := by decide
theorem test_decode_sb : decodeByte 0b01000000#8 = .ok .sb := by decide
theorem test_decode_isb : decodeByte 0b01010000#8 = .ok .isb := by decide
theorem test_decode_sr : decodeByte 0b01100000#8 = .ok .sr := by decide
theorem test_decode_isr : decodeByte 0b01110000#8 = .ok .isr := by decide
theorem test_decode_mc : decodeByte 0b10000000#8 = .ok .mc := by decide
theorem test_decode_imc : decodeByte 0b10010000#8 = .ok .imc := by decide
theorem test_decode_store : decodeByte 0b10100000#8 = .ok .store := by decide

/-- Reserved bytes of L2.11 and L2.12 are rejected, by name. -/
theorem test_decode_reserved :
    decodeCommand 0x3D#8 = .error (.illegalCommand 0x3D#8) ∧ decodeCommand 0x1F#8 = .error (.illegalCommand 0x1F#8) ∧
    decodeUop 0x2B#8 = .error (.reservedMicroOp 0x2B#8) ∧ decodeUop 0xB0#8 = .error (.reservedMicroOp 0xB0#8) ∧
    decodeUop 0x11#8 = .error (.reservedMicroOp 0x11#8) ∧ decodeByte 0xFF#8 = .error (.noInstruction 0xFF#8) ∧
    decode [] = .error .noBytes := by decide

/-- The classes of L2.12. -/
theorem test_command_classes :
    commandClass 0x1D#8 = .run .enc ∧ commandClass 0x1E#8 = .run .dec ∧ commandClass 0x19#8 = .absent .enc ∧
    commandClass 0x02#8 = .absent .dec ∧ commandClass 0x1C#8 = .illegal ∧ commandClass 0x21#8 = .illegal := by decide

theorem test_decode_table_word : decodeTableWord 8 0x2A = some (.kexp 10#4) ∧ decodeTableWord 8 0x3F = none := by decide

/-! ## The host commands (44_commands.md R236, R237; 95_test_vectors.md L1.5) -/

theorem test_encrypt_starts : report (step (cmd 0x1D#8 doneState)) = some (0x01#8, 0x00#8) := by decide +kernel

theorem test_encrypt_completes :
    seen (step (turn .completion busyEnc)) = some (0x02#8, 0x00#8, blk 0x69c4e0d86a7b0430d8cdb78070b4c55a#128) := by
  decide +kernel

theorem test_decrypt_key_absent :
    seen (step (cmd 0x16#8 doneState)) = some (0x04#8, 0x01#8, blk 0x69c4e0d86a7b0430d8cdb78070b4c55a#128) := by
  decide +kernel

theorem test_decrypt_completes :
    seen (step (turn .completion busyDec)) = some (0x02#8, 0x00#8, blk 0x00112233445566778899aabbccddeeff#128) := by
  decide +kernel

/-- Illegal before absent (L2.12, byte 0x21), and nothing while busy. -/
theorem test_illegal_command : report (step (cmd 0x21#8 errState)) = some (0x04#8, 0x02#8) := by decide +kernel
theorem test_command_while_busy : report (step (cmd 0x21#8 busyEnc)) = some (0x01#8, 0x00#8) := by decide +kernel

/-! ## The micro-ops (95_test_vectors.md L2.3 to L2.8) -/

/-- Byte `i` goes to row `i mod 4`, column `i div 4` (R11): byte 1 to row 1, byte 4 to column 1. -/
theorem test_loads :
    nextHolds (exec .loads busyEnc) (fun t => t.hidS.entry 1 0 == 0x11#8 && t.hidS.entry 0 1 == 0x44#8) = true := by
  decide +kernel

/-- Round key 1 of the FIPS-197 key (L2.7, R188). -/
theorem test_kexp_1 :
    keyAfter 1 (exec (.kexp 1#4)
      { State.reset with hidW := State.reset.hidW.set 0 (blk 0x2b7e151628aed2a6abf7158809cf4f3c#128) }) =
    some (blk 0xa0fafe1788542cb123a339392a6c7605#128) := by decide +kernel

/-- Round key 10 of the zero key from its round key 9 (L2.7): the last round constant. -/
theorem test_kexp_10 :
    keyAfter 10 (exec (.kexp 10#4)
      { State.reset with hidW := State.reset.hidW.set 9 (blk 0xb1d4d8e28a7db9da1d7bb3de4c664941#128) }) =
    some (blk 0xb4ef5bcb3e92e21123e951cf6f8f188e#128) := by decide +kernel

theorem test_ark_0 :
    sAfter (exec (.ark 0#4)
      { withS 0x3243f6a8885a308d313198a2e0370734#128 with
        hidW := State.reset.hidW.set 0 (blk 0x2b7e151628aed2a6abf7158809cf4f3c#128) }) =
    some (blk 0x193de3bea0f4e22b9ac68d2ae9f84808#128) := by decide +kernel

theorem test_sb : sAfter (exec .sb (withS 0x00112233445566778899aabbccddeeff#128)) =
    some (blk 0x638293c31bfc33f5c4eeacea4bc12816#128) := by decide +kernel

theorem test_isb : sAfter (exec .isb (withS 0x00112233445566778899aabbccddeeff#128)) =
    some (blk 0x52e3946686edd30297f962fe27c9997d#128) := by decide +kernel

theorem test_sr : sAfter (exec .sr (withS 0x000102030405060708090a0b0c0d0e0f#128)) =
    some (blk 0x00050a0f04090e03080d02070c01060b#128) := by decide +kernel

theorem test_isr : sAfter (exec .isr (withS 0x000102030405060708090a0b0c0d0e0f#128)) =
    some (blk 0x000d0a0704010e0b0805020f0c090603#128) := by decide +kernel

/-- Columns `db 13 53 45`, `f2 0a 22 5c`, `d4 d4 d4 d5` and `80 00 00 00` of L2.6. -/
theorem test_mc : sAfter (exec .mc (withS 0xdb135345f20a225cd4d4d4d580000000#128)) =
    some (blk 0x8e4da1bc9fdc589dd5d5d7d61b80809b#128) := by decide +kernel

theorem test_imc : sAfter (exec .imc (withS 0xdb135345f20a225cd4d4d4d580000000#128)) =
    some (blk 0x32a41d55aec36982ddd9dfda41ecdaf7#128) := by decide +kernel

/-- STORE gives the block the matrix was loaded from, and STATUS reads done (R219, R234). -/
theorem test_store :
    seen (exec .store { withS 0x000102030405060708090a0b0c0d0e0f#128 with busy := true }) =
    some (0x02#8, 0x00#8, blk 0x000102030405060708090a0b0c0d0e0f#128) := by decide +kernel

/-! ## The field and the tables (L2.1, L2.2) -/

theorem test_xtime : xtime 0x57#8 = 0xae#8 ∧ xtime 0xae#8 = 0x47#8 ∧ xtime 0x80#8 = 0x1b#8 ∧ xtime 0xff#8 = 0xe5#8 := by
  decide

theorem test_products_of_d4 : mul2 0xd4#8 = 0xb3#8 ∧ mul3 0xd4#8 = 0x67#8 ∧ mul9 0xd4#8 = 0x2e#8 ∧ mul11 0xd4#8 = 0x9d#8 ∧
    mul13 0xd4#8 = 0x53#8 ∧ mul14 0xd4#8 = 0x34#8 := by decide

/-- The generic multiplier the statements use: 57 times 83 is c1, and 57 times 13 is fe. -/
theorem test_gf_mul : gfMul 0x57#8 0x83#8 = 0xc1#8 ∧ gfMul 0x57#8 0x13#8 = 0xfe#8 := by decide +kernel

theorem test_tables : sbox 0x53#8 = 0xed#8 ∧ sbox 0xc9#8 = 0xdd#8 ∧ invSbox 0x52#8 = 0x48#8 ∧ invSbox 0xff#8 = 0x7d#8 ∧
    rcon.get 7 = 0x80#8 ∧ rcon.get 8 = 0x1b#8 ∧ rcon.get 9 = 0x36#8 := by decide +kernel

/-! ## The register window and the host's notation (L2.13; 30_encoding.md R101, R113, R115) -/

theorem test_write_din_0 : nextHolds (step (turn (wr 0x00#6 0xAB#8) busyEnc)) (fun t => t.din.get 0 == 0xAB#8) = true := by
  decide +kernel

theorem test_write_key_15 : nextHolds (step (turn (wr 0x1F#6 0xAB#8) busyEnc)) (fun t => t.key.get 15 == 0xAB#8) = true := by
  decide +kernel

theorem test_reset_abandons :
    report (step (turn .reset busyEnc)) = some (0x00#8, 0x00#8) := by decide +kernel

theorem test_host_notation :
    (Transfer.write 0x1F#6 0xEE#8).text = "W 1F EE".toList ∧ (Transfer.read 0x31#6).text = "R 31".toList ∧
    mnemonicText (.kexp 10#4) = "KEXP 10".toList ∧ enc = [.transfer (.write 0x30#6 0x1D#8)] ∧ getOut.length = 16 ∧
    getOut.head? = some (rd 0x20#6) ∧ getOut.getLast? = some (rd 0x2F#6) := by decide +kernel

/-- An instruction word placed after reset: a command starts, a micro-op is fetched and run (assumption log 3). -/
theorem test_placed_encrypt : report (step (State.reset.withFetchWord 8 0x1D)) = some (0x01#8, 0x00#8) := by
  decide +kernel

theorem test_placed_imc : nextHolds (step (State.reset.withFetchWord 8 0x90))
    (fun t => t.busy && t.hidOpsel == .dec && t.hidUpc == 17) = true := by decide +kernel

/-! ## Witnesses: for each statement with hypotheses, a state and operands that meet them all together -/

theorem witness_DecodeOfEncodeIsIdentity :
    ((Instr.kexp 10#4).wellFormed = true ∧ (Instr.kexp 10#4).isCommand = false) ∧
    ((Instr.decrypt true false true).wellFormed = true ∧ (Instr.decrypt true false true).isCommand = true) := by decide

theorem witness_EncodeOfDecodeIsIdentity : decodeByte 0x2A#8 = .ok (.kexp 10#4) := by decide

/-- One word for each alternative of the first clause, at its boundary, and one for the second clause. -/
theorem witness_ReservedMicroOpWordsFault :
    (0x0F#8).toNat / 16 = 0 ∧ 0xB ≤ (0xB0#8).toNat / 16 ∧ ((0x2B#8).toNat / 16 = 0x2 ∧ 10 < (0x2B#8).toNat % 16) ∧
    ((0x3F#8).toNat / 16 = 0x3 ∧ 10 < (0x3F#8).toNat % 16) ∧
    ((0x11#8).toNat / 16 ≠ 0x2 ∧ (0x11#8).toNat / 16 ≠ 0x3 ∧ (0x11#8).toNat % 16 ≠ 0) ∧ 10 < (11#4).toNat := by decide

theorem witness_ResetStepLeavesResetValues : (turn .reset busyEnc).turns = .reset :: [] := rfl

/-- Each range of offsets at both its ends: the byte R75 gives comes back. -/
theorem witness_HostReadReturnsRegister :
    readBack (step (turn (rd 0x00#6) filled)) = some 0x00#8 ∧ readBack (step (turn (rd 0x0F#6) filled)) = some 0x0F#8 ∧
    readBack (step (turn (rd 0x10#6) filled)) = some 0x00#8 ∧ readBack (step (turn (rd 0x1F#6) filled)) = some 0x00#8 ∧
    readBack (step (turn (rd 0x20#6) filled)) = some 0x20#8 ∧ readBack (step (turn (rd 0x2F#6) filled)) = some 0x2F#8 ∧
    readBack (step (turn (rd 0x30#6) filled)) = some 0x00#8 ∧ readBack (step (turn (rd 0x31#6) errState)) = some 0x04#8 ∧
    readBack (step (turn (rd 0x32#6) errState)) = some 0x01#8 ∧ readBack (step (turn (rd 0x33#6) errState)) = some 0x00#8 ∧
    readBack (step (turn (rd 0x3F#6) errState)) = some 0x00#8 := by decide +kernel

/-- Each range of offsets at both its ends, from a state with an operation in flight. -/
theorem witness_HostWriteStoresRegister :
    nextHolds (step (turn (wr 0x0F#6 0xAB#8) busyEnc)) (fun t => t.din.get 15 == 0xAB#8 && t.key == busyEnc.key) = true ∧
    nextHolds (step (turn (wr 0x10#6 0xAB#8) busyEnc)) (fun t => t.key.get 0 == 0xAB#8 && t.din == busyEnc.din) = true ∧
    step (turn (wr 0x20#6 0xAB#8) busyEnc) = .next busyEnc ∧ step (turn (wr 0x2F#6 0xAB#8) busyEnc) = .next busyEnc ∧
    step (turn (wr 0x31#6 0xAB#8) busyEnc) = .next busyEnc ∧ step (turn (wr 0x32#6 0xAB#8) busyEnc) = .next busyEnc ∧
    step (turn (wr 0x33#6 0xAB#8) busyEnc) = .next busyEnc ∧ step (turn (wr 0x3F#6 0xAB#8) busyEnc) = .next busyEnc ∧
    step (turn (wr 0x30#6 0x1D#8) errState) = writeCommand 0x1D#8 errState :=
  ⟨by decide +kernel, by decide +kernel, rfl, rfl, rfl, rfl, rfl, rfl, rfl⟩

/-- Widths on both sides of 1, and the first address past the window. Whether an address lies below the window depends on
AES_BASE, which the platform chooses: the alternative of the second clause that can always be met is the other one. -/
theorem witness_OtherAccessesRefused :
    (0 : Nat) ≠ 1 ∧ (2 : Nat) ≠ 1 ∧ Config.aesBase + 0x3F < Config.aesBase + 0x40 := by
  refine ⟨by decide, by decide, by omega⟩

/-- Two states that differ in the key and in a hidden register look the same. -/
theorem witness_HostTurnsHideKeyAndHiddenState :
    hostView filled = hostView { filled with key := Block.zero, hidUpc := 7 } ∧ filled.key ≠ Block.zero ∧
    rd 0x1F#6 ≠ .microOp ∧ rd 0x1F#6 ≠ .completion ∧
    takeTurn (rd 0x1F#6) filled = .next (returnByte 0x00#8 filled) := ⟨rfl, by decide +kernel, by decide, by decide, rfl⟩

theorem witness_CommandStartsOperation : doneState.busy = false := rfl

theorem witness_OperationBeginsAtFirstMicroOp : State.reset.busy = false ∧
    exec (.encrypt true true true) State.reset = .next (start .enc (clearReport State.reset)) ∧
    exec (.decrypt true true true) State.reset = .next (start .dec (clearReport State.reset)) := ⟨rfl, rfl, rfl⟩

theorem witness_AbsentBufferRaisesInvalidArgument : doneState.busy = false ∧
    (false = false ∨ true = false ∨ true = false) ∧ (true = false ∨ false = false ∨ true = false) ∧
    (true = false ∨ true = false ∨ false = false) := by decide

/-- One byte for each alternative, at its boundary: the lowest with a reserved bit, and the two reserved OP codes. -/
theorem witness_IllegalByteRaisesIllegalCommand : (cmd 0x20#8 errState).busy = false ∧
    (cmd 0x20#8 errState).turns = .transfer (.write 0x30#6 0x20#8) :: [] ∧
    (0x21#8).extractLsb' 5 3 ≠ 0b000#3 ∧ (0x1C#8).extractLsb' 0 2 = 0b00#2 ∧ (0x1F#8).extractLsb' 0 2 = 0b11#2 := by decide

theorem witness_CommandWhileBusyIgnored : (cmd 0x1D#8 busyEnc).busy = true ∧
    (cmd 0x1D#8 busyEnc).turns = .transfer (.write 0x30#6 0x1D#8) :: [] ∧ busyDec.busy = true := by decide

/-- Each of the four branches, at bytes where two of the checks would apply: busy and illegal; illegal and absent; absent;
start. -/
theorem witness_CommandWriteChecksInOrder :
    report (step (cmd 0xFF#8 busyEnc)) = some (0x01#8, 0x00#8) ∧ report (step (cmd 0x00#8 errState)) = some (0x04#8, 0x02#8) ∧
    report (step (cmd 0x0D#8 doneState)) = some (0x04#8, 0x01#8) ∧
    report (step (cmd 0x1E#8 doneState)) = some (0x01#8, 0x00#8) := by decide +kernel

theorem witness_CompletionWritesResult :
    (turn .completion busyEnc).turns = .completion :: [] ∧ busyEnc.busy = true ∧ busyEnc.hidOpsel = .enc ∧
    (turn .completion busyDec).turns = .completion :: [] ∧ busyDec.busy = true ∧ busyDec.hidOpsel = .dec := by decide

theorem witness_IdleCoreChangesNothing : doneState.busy = false ∧ (turn .completion doneState).turns = .completion :: [] ∧
    (turn .microOp doneState).turns = .microOp :: [] ∧ doneState.turns = [] := by decide

/-- The first, the second and the last round key; another round key's first and last byte. -/
theorem witness_KexpWritesOneRoundKey : (0#4).toNat ≤ 10 ∧ (0#4).toNat = 0 ∧ (1#4).toNat ≤ 10 ∧ 1 ≤ (1#4).toNat ∧
    (10#4).toNat ≤ 10 ∧ 1 ≤ (10#4).toNat ∧ (0 : Fin 176).val / 16 ≠ (1#4).toNat ∧ (175 : Fin 176).val / 16 ≠ (1#4).toNat := by
  decide

theorem witness_ArkAddsRoundKey : (0#4).toNat ≤ 10 ∧ (10#4).toNat ≤ 10 := by decide

theorem witness_StoreCompletesOperation : busyEnc.busy = true ∧ uopAt .enc 52 = 0xA0#8 ∧ uopAt .dec 52 = 0xA0#8 := by decide

/-- At 0, and at a byte with an inverse: 53 times ca is 1, and A(ca) is ed. -/
theorem witness_SboxEqualsItsGenerator : sbox 0x00#8 = affineMap 0x00#8 ∧ (0x53#8 : Byte) ≠ 0x00#8 ∧
    gfMul 0x53#8 0xca#8 = 0x01#8 ∧ affineMap 0xca#8 = 0xed#8 := by decide +kernel

theorem witness_CommutationOfTransforms :
    (∀ r c, Mat.zero.entry r c = 0x00#8) ∧
    (∀ r c, (load (blk 0x01000000000000000000000000000000#128)).entry r c = if r = 0 ∧ c = 0 then 0x01#8 else 0x00#8) := by
  decide +kernel

/-- The words of a schedule; the boundary words of each clause. -/
theorem witness_KeyExpansionWordForm :
    (∃ w : Fin 44 → Fin 4 → Byte, ∀ m u, w m u = (keyExpansion Block.zero).byte ⟨4 * m.val + u.val, by omega⟩) ∧
    (4 ≤ (4 : Fin 44).val ∧ (4 : Fin 44).val % 4 = 0) ∧ (4 ≤ (5 : Fin 44).val ∧ (5 : Fin 44).val % 4 ≠ 0) ∧
    (4 ≤ (40 : Fin 44).val ∧ (40 : Fin 44).val % 4 = 0) ∧ (4 ≤ (43 : Fin 44).val ∧ (43 : Fin 44).val % 4 ≠ 0) :=
  ⟨⟨_, fun _ _ => rfl⟩, by decide, by decide, by decide, by decide⟩

theorem witness_StepRunsDecodedCommand :
    (cmd 0x19#8 State.reset).turns = .transfer (.write 0x30#6 0x19#8) :: [] ∧
    decodeCommand 0x19#8 = .ok (.encrypt false true true) := by decide

theorem witness_StepRunsDecodedMicroOp : busyDec.busy = true ∧
    decodeUop (uopAt busyDec.hidOpsel busyDec.hidUpc) = .ok .loads ∧ (turn .microOp busyDec).turns = .microOp :: [] ∧
    busyDec.turns = [] := by decide

theorem witness_PlacedWordIsRunNext :
    ((Instr.ark 10#4).wellFormed = true ∧ (Instr.ark 10#4).isCommand = false) ∧
    ((Instr.encrypt true true false).wellFormed = true ∧ (Instr.encrypt true true false).isCommand = true) := by decide

theorem witness_StepRefusesOnlyForeignAccesses :
    step (turn (.access (.memRead 0 2)) State.reset) = .refused (.accessWidth 2) := rfl

/-! The invariants hold at states of every kind, with a step from them. -/

theorem witness_StepKeepsStatusOneHot :
    (StatusOneHot busyEnc ∧ ∃ t, step busyEnc = .next t) ∧ (StatusOneHot doneState ∧ step doneState = .next doneState) ∧
    (StatusOneHot errState ∧ ∃ t, step (cmd 0x1D#8 errState) = .next t) := by
  refine ⟨⟨by simp [StatusOneHot, busyEnc, State.reset], microStep_next _⟩, ⟨by simp [StatusOneHot, doneState, State.reset], rfl⟩,
    ⟨by simp [StatusOneHot, errState, State.reset], ⟨_, rfl⟩⟩⟩

theorem witness_StepKeepsErrorReportLegal :
    (ErrorReportLegal doneState ∧ step doneState = .next doneState) ∧
    (ErrorReportLegal errState ∧ step errState = .next errState) := by
  refine ⟨⟨by simp [ErrorReportLegal, doneState, State.reset], rfl⟩, ⟨by simp [ErrorReportLegal, errState, State.reset], rfl⟩⟩

/-- An operation at its last micro-op, with the right result in `HID.S`: the invariant holds there, not vacuously. -/
def atStore : State := { busyEnc with hidUpc := 52, hidS := load (cipher busyEnc.hidSin busyEnc.hidSkey) }

theorem witness_StepKeepsInFlightResultRight : InFlightRight atStore ∧ atStore.busy = true ∧ ∃ t, step atStore = .next t := by
  refine ⟨fun _ => ?_, rfl, microStep_next _⟩
  have h : microSteps (remaining atStore) atStore =
      .next (unspecifyHidden (setDone { advance atStore with dout := store atStore.hidS })) := rfl
  exact ⟨_, h, by simp, by simp, by simp [atStore, operationResult, busyEnc]⟩

/-! A step for every way BUSY, DONE, ERR and DOUT change. -/

theorem witness_BusyChangesOnlyByStartOrEnd :
    (State.reset.busy = false ∧ nextHolds (step (cmd 0x1D#8 State.reset)) (fun t => t.busy) = true) ∧
    (busyEnc.busy = true ∧ nextHolds (step (turn .completion busyEnc)) (fun t => !t.busy) = true) ∧
    nextHolds (step (turn .reset busyEnc)) (fun t => !t.busy) = true ∧
    nextHolds (step atStore) (fun t => !t.busy) = true ∧
    (nextTurn (cmd 0x1D#8 busyEnc)).writeAt? 0x30#6 ≠ none := by decide +kernel

theorem witness_DoneChangesOnlyByCompletionOrAcceptance :
    nextHolds (step (turn .completion busyEnc)) (fun t => t.done) = true ∧ nextHolds (step atStore) (fun t => t.done) = true ∧
    nextHolds (step (cmd 0x00#8 doneState)) (fun t => !t.done) = true ∧
    nextHolds (step (turn .reset doneState)) (fun t => !t.done) = true := by decide +kernel

theorem witness_ErrChangesOnlyByAcceptance :
    nextHolds (step (cmd 0x00#8 doneState)) (fun t => t.err) = true ∧
    nextHolds (step (cmd 0x15#8 doneState)) (fun t => t.err) = true ∧
    nextHolds (step (cmd 0x1D#8 errState)) (fun t => !t.err) = true ∧
    nextHolds (step (turn .reset errState)) (fun t => !t.err) = true := by decide +kernel

theorem witness_DoutChangesOnlyByCompletion :
    nextHolds (step (turn .completion busyEnc)) (fun t => t.dout != busyEnc.dout) = true ∧
    nextHolds (step (turn .reset doneState)) (fun t => t.dout != doneState.dout) = true := by decide +kernel

theorem witness_DinAndKeyChangeOnlyByHostWrite :
    nextTurn (turn (wr 0x0F#6 0xAB#8) filled) ≠ .reset ∧ (nextTurn (turn (wr 0x0F#6 0xAB#8) filled)).writeAt? 0x0F#6 = some 0xAB#8 ∧
    nextHolds (step (turn (wr 0x0F#6 0xAB#8) filled)) (fun t => t.din.get 15 == 0xAB#8) = true ∧
    nextHolds (step (turn (wr 0x10#6 0xAB#8) filled)) (fun t => t.key.get 0 == 0xAB#8) = true := by decide +kernel

theorem witness_CapturedOperandsStayWhileBusy : busyEnc.busy = true ∧
    nextHolds (step busyEnc) (fun t => t.busy) = true ∧
    nextHolds (step (turn (wr 0x00#6 0xAB#8) busyEnc)) (fun t => t.busy) = true := by decide +kernel

theorem witness_CompletedResultStaysReadable : doneState.done = true ∧ doneState.busy = false ∧
    (nextTurn (turn (rd 0x20#6) doneState)).writeAt? 0x30#6 = none ∧ nextTurn (turn (rd 0x20#6) doneState) ≠ .reset ∧
    nextHolds (step (turn (rd 0x20#6) doneState)) (fun t => t.done) = true := by decide +kernel

theorem witness_MicroProgramComputesCipher : busyEnc.busy = true ∧ busyEnc.hidUpc = 0 ∧ busyEnc.turns = [] ∧
    busyEnc.hidOpsel = .enc ∧ busyDec.busy = true ∧ busyDec.hidUpc = 0 ∧ busyDec.turns = [] ∧ busyDec.hidOpsel = .dec := by
  decide

theorem witness_OperationCompletes : atStore.busy = true ∧ atStore.turns = [] ∧ busyDec.busy = true ∧ busyDec.turns = [] := by
  decide

end Sys2Proof.Tests
end

/-! PROOFS. The STATUS bits. Settles the rules of 10_state.md on when each STATUS bit changes (R38 to R40). One lemma, `step_statusEffect`,
says what a step can do to BUSY, DONE and ERR; the three rules are read off its cases. -/

namespace Sys2Proof.Machine

/-! ## The byte a turn writes -/

/-- A turn that brings no transfer to the port writes nothing. -/
theorem Turn.writeAt?_of_noTransfer {t : Turn} (h : t.transfer? = none) (off : BitVec 6) : t.writeAt? off = none := by
  simp [Turn.writeAt?, h]

/-- A turn that reads writes nothing. -/
theorem Turn.writeAt?_of_read {t : Turn} {o : BitVec 6} (h : t.transfer? = some (.read o)) (off : BitVec 6) :
    t.writeAt? off = none := by simp [Turn.writeAt?, h]

/-- A turn that writes at an offset writes there only. -/
theorem Turn.writeAt?_of_write {t : Turn} {o : BitVec 6} {v : Byte} (h : t.transfer? = some (.write o v))
    (off : BitVec 6) : t.writeAt? off = if o = off then some v else none := by simp [Turn.writeAt?, h]

/-- A turn that brings a transfer to the port is no reset. -/
theorem Turn.ne_reset_of_transfer {t : Turn} {x : Transfer} (h : t.transfer? = some x) : t ≠ .reset := by
  rintro rfl; cases h

/-- A reset writes no byte. -/
@[simp] theorem Turn.writeAt?_reset (off : BitVec 6) : Turn.reset.writeAt? off = none := rfl

/-- A turn that writes a byte is no reset. -/
theorem Turn.ne_reset_of_writeAt? {t : Turn} {off : BitVec 6} {v : Byte} (h : t.writeAt? off = some v) :
    t ≠ .reset := by rintro rfl; simp at h

/-! ## What a step can do to the STATUS bits -/

/-- The turn is one of the two ways an operation in flight ends: the completion step at once, or the micro-op STORE
(44_commands.md R234; 43_cipher.md R219). -/
def EndsOperation (s : State) : Prop := nextTurn s = .completion ∨ (nextTurn s = .microOp ∧ fetchUop s = 0xA0#8)

/-- An operation does not end by a reset. -/
theorem EndsOperation.ne_reset {s : State} (h : EndsOperation s) : nextTurn s ≠ .reset := by
  obtain h | ⟨h, _⟩ := h <;> simp [h]

/-- An operation does not end by a byte written to the window. -/
theorem EndsOperation.writeAt?_eq_none {s : State} (h : EndsOperation s) (off : BitVec 6) :
    (nextTurn s).writeAt? off = none := by
  obtain h | ⟨h, _⟩ := h <;> exact Turn.writeAt?_of_noTransfer (by rw [h]; rfl) off

/-- What a step from `s` to `t` does to BUSY, DONE and ERR, by the turn taken. -/
inductive StatusEffect (s t : State) : Prop
  /-- No byte is written to CMD, no operation ends and no reset acts: the three bits stay. -/
  | unchanged (noCmd : (nextTurn s).writeAt? 0x30#6 = none) (noReset : nextTurn s ≠ .reset)
      (busy : t.busy = s.busy) (done : t.done = s.done) (err : t.err = s.err)
  /-- A byte written to CMD while BUSY = 1 is ignored. -/
  | ignored (v : Byte) (cmd : (nextTurn s).writeAt? 0x30#6 = some v) (inFlight : s.busy = true) (same : t = turnTaken s)
  /-- A byte written to CMD starts an operation. -/
  | started (v : Byte) (op : OpSel) (cmd : (nextTurn s).writeAt? 0x30#6 = some v) (idle : s.busy = false)
      (run : commandClass v = .run op) (busy : t.busy = true) (done : t.done = false) (err : t.err = false)
  /-- A byte written to CMD is accepted and is in error. -/
  | failed (v : Byte) (cmd : (nextTurn s).writeAt? 0x30#6 = some v) (idle : s.busy = false)
      (noRun : ∀ op, commandClass v ≠ .run op) (busy : t.busy = false) (done : t.done = false) (err : t.err = true)
  /-- The operation in flight ends. -/
  | completed (ends : EndsOperation s) (inFlight : s.busy = true)
      (busy : t.busy = false) (done : t.done = true) (err : t.err = s.err)
  /-- The reset input acts. -/
  | reset (isReset : nextTurn s = .reset) (busy : t.busy = false) (done : t.done = false) (err : t.err = false)

/-- A byte written to CMD is ignored, starts an operation or fails. -/
theorem statusEffect_of_writeCommand {s t : State} {v : Byte} (hx : (nextTurn s).transfer? = some (.write cmdOffset v))
    (h : writeCommand v (turnTaken s) = .next t) : StatusEffect s t := by
  have cmd : (nextTurn s).writeAt? 0x30#6 = some v := by simp [Turn.writeAt?_of_write hx, cmdOffset]
  obtain ⟨hb, rfl⟩ | ⟨hb, op, run, rfl⟩ | ⟨hb, noRun, c, _, rfl⟩ := writeCommand_inv h
  · exact .ignored v cmd hb rfl
  · exact .started v op cmd hb run (by simp) (by simp) (by simp)
  · exact .failed v cmd hb noRun (by simpa using hb) (by simp) (by simp)

/-- A micro-op turn leaves the three bits, but for STORE, which ends the operation in flight. -/
theorem statusEffect_of_microStep {s t : State} (hn : nextTurn s = .microOp) (h : microStep (turnTaken s) = .next t) :
    StatusEffect s t := by
  have noCmd : (nextTurn s).writeAt? 0x30#6 = none := Turn.writeAt?_of_noTransfer (by rw [hn]; rfl) _
  have noReset : nextTurn s ≠ .reset := by simp [hn]
  obtain ⟨_, rfl⟩ | ⟨_, m, w, rfl⟩ | ⟨hb, hf, rfl⟩ := microStep_inv h
  · exact .unchanged noCmd noReset (by simp) (by simp) (by simp)
  · exact .unchanged noCmd noReset (by simp) (by simp) (by simp)
  · exact .completed (.inr ⟨hn, hf⟩) hb (by simp) (by simp) (by simp)

/-- A completion turn ends the operation in flight, and leaves the three bits of an idle core. -/
theorem statusEffect_of_complete {s : State} (hn : nextTurn s = .completion) :
    StatusEffect s (complete (turnTaken s)) := by
  obtain ⟨_, e⟩ | ⟨hb, e⟩ := complete_cases (turnTaken s) <;> rw [e]
  · exact .unchanged (Turn.writeAt?_of_noTransfer (by rw [hn]; rfl) _) (by simp [hn]) (by simp) (by simp) (by simp)
  · exact .completed (.inl hn) hb (by simp) (by simp) (by simp)

/-- Every step does one of these things to the STATUS bits. -/
theorem step_statusEffect {s t : State} (h : step s = .next t) : StatusEffect s t := by
  obtain ⟨off, hx, rfl⟩ | ⟨off, v, hx, hc, rfl⟩ | ⟨v, hx, hw⟩ | ⟨hn, hm⟩ | ⟨hn, rfl⟩ | ⟨hn, rfl⟩ := step_cases h
  · exact .unchanged (Turn.writeAt?_of_read hx _) (Turn.ne_reset_of_transfer hx) (by simp) (by simp) (by simp)
  · have noCmd : (nextTurn s).writeAt? 0x30#6 = none := (Turn.writeAt?_of_write hx _).trans (if_neg hc)
    exact .unchanged noCmd (Turn.ne_reset_of_transfer hx) (by simp) (by simp) (by simp)
  · exact statusEffect_of_writeCommand hx hw
  · exact statusEffect_of_microStep hn hm
  · exact statusEffect_of_complete hn
  · exact .reset hn (by simp) (by simp) (by simp)

/-! ## The obligations -/

/-- Settles O48: of the six effects of a step only `started` raises BUSY, only `completed` and `reset` lower it, and the
only byte written to CMD while BUSY = 1 is `ignored`. -/
theorem busyChangesOnlyByStartOrEnd : Obligations.BusyChangesOnlyByStartOrEnd := by
  unfold Obligations.BusyChangesOnlyByStartOrEnd
  intro s t h
  cases step_statusEffect h with
  | unchanged noCmd _ busy => simp +contextual [noCmd, busy]
  | ignored v _ inFlight same => simp [inFlight, same]
  | started v op cmd idle run => simp [cmd, idle, run]
  | failed v _ idle _ busy => simp [idle, busy]
  | completed ends inFlight busy =>
    refine ⟨?_, fun _ _ => ?_, ?_⟩
    · simp [inFlight]
    · exact ends.elim .inl fun store => .inr (.inl store)
    · simp [ends.writeAt?_eq_none]
  | reset isReset busy => simp [isReset, busy]

/-- Settles O49: only `completed` raises DONE, and the accepted bytes (`started`, `failed`) and `reset` leave it 0; the
other effects keep it. -/
theorem doneChangesOnlyByCompletionOrAcceptance : Obligations.DoneChangesOnlyByCompletionOrAcceptance := by
  unfold Obligations.DoneChangesOnlyByCompletionOrAcceptance
  intro s t h
  cases step_statusEffect h with
  | unchanged noCmd noReset _ done => simp +contextual [noCmd, noReset, done]
  | ignored v cmd inFlight same => simp +contextual [inFlight, same, Turn.ne_reset_of_writeAt? cmd]
  | started v op cmd idle _ _ done => simp [cmd, idle, done]
  | failed v cmd idle _ _ done => simp [cmd, idle, done]
  | completed ends inFlight busy done =>
    refine ⟨fun _ _ => ⟨inFlight, busy, ends⟩, ?_, ?_, ?_⟩
    · simp [done]
    · simp [inFlight]
    · simp [ends.ne_reset]
  | reset isReset busy done => simp [isReset, done]

/-- Settles O50: only `failed` raises ERR and only `started` and `reset` lower it; each accepted byte sets it by its own
class. -/
theorem errChangesOnlyByAcceptance : Obligations.ErrChangesOnlyByAcceptance := by
  unfold Obligations.ErrChangesOnlyByAcceptance
  intro s t h
  cases step_statusEffect h with
  | unchanged noCmd noReset _ _ err => simp +contextual [noCmd, noReset, err]
  | ignored v cmd inFlight same => simp +contextual [inFlight, same, Turn.ne_reset_of_writeAt? cmd]
  | started v op cmd idle run _ _ err => simp [cmd, idle, run, err]
  | failed v cmd idle noRun _ _ err => simp [cmd, idle, noRun, Turn.ne_reset_of_writeAt? cmd, err]
  | completed ends inFlight _ _ err => simp +contextual [inFlight, ends.ne_reset, err]
  | reset isReset _ _ err => simp [isReset, err]

end Sys2Proof.Machine

/-! PROOFS. The register window. Settles what a host transfer does at each offset (20_memory.md R75, R76). One rule per range of
offsets says what a read returns or a write stores, and one rule per kind of transfer says what its step does. -/

namespace Sys2Proof.Machine

/-! ## What a host read returns, by the range of the offset (R75) -/

section
variable {off : BitVec 6} (s : State)

/-- DIN is read at 0x00 to 0x0F. -/
theorem readOffset_din {i : Fin 16} (h : off.toNat = i.val) : readOffset off s = s.din.get i := by
  simp [readOffset, h]

/-- KEY is write-only. -/
theorem readOffset_key (h : 0x10 ≤ off.toNat) (h' : off.toNat ≤ 0x1F) : readOffset off s = 0x00#8 := by
  have below : off.toNat < 0x20 := by omega
  simp [readOffset, Nat.not_lt.mpr h, below]

/-- DOUT is read at 0x20 to 0x2F. -/
theorem readOffset_dout {i : Fin 16} (h : off.toNat = 0x20 + i.val) : readOffset off s = s.dout.get i := by
  have notDin : ¬ 0x20 + i.val < 0x10 := by omega
  have below : 0x20 + i.val < 0x30 := by omega
  simp [readOffset, h, notDin, below]

/-- CMD stores nothing. -/
theorem readOffset_cmd (h : off.toNat = 0x30) : readOffset off s = 0x00#8 := by simp [readOffset, h]

/-- The three STATUS bits are read at 0x31. -/
theorem readOffset_status (h : off.toNat = 0x31) : readOffset off s = statusByte s := by simp [readOffset, h]

/-- ERR_CAUSE is read at 0x32. -/
theorem readOffset_errCause (h : off.toNat = 0x32) : readOffset off s = s.errCause := by simp [readOffset, h]

/-- The reserved offsets read zero. -/
theorem readOffset_reserved (h : 0x33 ≤ off.toNat) : readOffset off s = 0x00#8 := by
  have notLow : ¬ off.toNat < 0x10 ∧ ¬ off.toNat < 0x20 ∧ ¬ off.toNat < 0x30 := by omega
  have notControl : off.toNat ≠ 0x30 ∧ off.toNat ≠ 0x31 ∧ off.toNat ≠ 0x32 := by omega
  simp [readOffset, notLow, notControl]

end

/-! ## What a host write stores, at a numbered byte (R76) -/

section
variable {off : BitVec 6} {i : Fin 16} (v : Byte) (s : State)

theorem writeOffset_din_byte (h : off.toNat = i.val) : writeOffset off v s = { s with din := s.din.set i.val v } := by
  have inDin : off.toNat < 0x10 := by omega
  simp [writeOffset_din_range off v s inDin, h]

theorem writeOffset_key_byte (h : off.toNat = 0x10 + i.val) :
    writeOffset off v s = { s with key := s.key.set i.val v } := by
  have aboveDin : 0x10 ≤ off.toNat := by omega
  have inKey : off.toNat < 0x20 := by omega
  simp [writeOffset_key_range off v s aboveDin inKey, h]

end

/-! ## The step that takes a host transfer -/

/-- An offset is that of CMD when its number is 0x30. -/
theorem eq_cmdOffset_iff (off : BitVec 6) : off = cmdOffset ↔ off.toNat = 0x30 := BitVec.toNat_inj.symm

section
variable {s : State} {rest : List Turn} {off : BitVec 6} {v : Byte}

/-- A read returns the byte at its offset and changes nothing else. -/
theorem step_read (h : s.turns = .transfer (.read off) :: rest) :
    step s = .next { s with turns := rest, returned := readOffset off s :: s.returned } := by
  rw [step, h]; rfl

/-- A write to CMD is a command. -/
theorem step_write_cmd (h : s.turns = .transfer (.write off v) :: rest) (hc : off.toNat = 0x30) :
    step s = writeCommand v { s with turns := rest } := by
  simp [step, h, takeTurn, runTransfer, (eq_cmdOffset_iff off).mpr hc]

/-- Any other write stores at its offset. -/
theorem step_write_other (h : s.turns = .transfer (.write off v) :: rest) (hc : off.toNat ≠ 0x30) :
    step s = .next (writeOffset off v { s with turns := rest }) := by
  simp [step, h, takeTurn, runTransfer, (eq_cmdOffset_iff off).not.mpr hc]

end

/-! ## The obligations -/

/-- Settles O10: the step of a read returns `readOffset`, and each range of offsets has its rule. -/
theorem hostReadReturnsRegister : Obligations.HostReadReturnsRegister := by
  unfold Obligations.HostReadReturnsRegister
  intro s rest off h
  exact ⟨readOffset off s, step_read h, fun _ => readOffset_din s, readOffset_key s, fun _ => readOffset_dout s,
    readOffset_cmd s, readOffset_status s, readOffset_errCause s, readOffset_reserved s⟩

/-- Settles O11: the step of a write is a command at CMD and `writeOffset` elsewhere, and each range of offsets has its
rule. BUSY is looked at in none of them. -/
theorem hostWriteStoresRegister : Obligations.HostWriteStoresRegister := by
  unfold Obligations.HostWriteStoresRegister
  intro s rest off v h
  refine ⟨fun i hi => ?din, fun i hi => ?key, step_write_cmd h, fun high notCmd => ?ignored⟩
  case din => rw [step_write_other h (by omega), writeOffset_din_byte v _ hi]
  case key => rw [step_write_other h (by omega), writeOffset_key_byte v _ hi]
  case ignored => rw [step_write_other h notCmd, writeOffset_ignored off v _ high]

end Sys2Proof.Machine

/-! PROOFS. The encodings. Settles the class of a command byte (30_encoding.md R107) and the reserved micro-op words (R112). One lemma,
`decodeUop_verdict`, says which words decode and which are reserved; with `exec_next` (a well-formed instruction never
stops) it gives the words that fault. -/

namespace Sys2Proof

/-! ## The class of a command byte (R107) -/

/-- Some buffer is absent when a presence bit is 0 (R105). -/
theorem allPresent_eq_false_iff (inP keyP outP : Bool) :
    allPresent inP keyP outP = false ↔ inP = false ∨ keyP = false ∨ outP = false := by
  simp only [allPresent, Bool.and_eq_false_iff, or_assoc]

/-- A named command is absent when a presence bit is 0. -/
theorem classOf_eq (op : OpSel) (inP keyP outP : Bool) :
    classOf op inP keyP outP = if inP = false ∨ keyP = false ∨ outP = false then .absent op else .run op := by
  simp only [classOf, ← allPresent_eq_false_iff]
  cases allPresent inP keyP outP <;> rfl

/-- The checks of R107 on a byte written to CMD, in order, by the fields of R103. -/
theorem commandClass_eq (v : Byte) :
    commandClass v =
      if cmdRsv v ≠ 0b000#3 then .illegal
      else if cmdOp v = 0b01#2 then classOf .enc (cmdInP v) (cmdKeyP v) (cmdOutP v)
      else if cmdOp v = 0b10#2 then classOf .dec (cmdInP v) (cmdKeyP v) (cmdOutP v)
      else .illegal := by
  unfold commandClass decodeCommand
  split_ifs <;> rfl

/-! ## The reserved micro-op words (R112) -/

/-- The fields of a micro-op word as numbers (R110). -/
theorem uopCode_toNat (w : Byte) : (uopCode w).toNat = w.toNat / 16 := by
  simp only [uopCode, BitVec.extractLsb'_toNat, Nat.shiftRight_eq_div_pow]
  omega

theorem uopRnd_toNat (w : Byte) : (uopRnd w).toNat = w.toNat % 16 := by simp [uopRnd]

/-- The words R112 lists as reserved, by their fields `UOP` and `RND`. -/
def ReservedUop (w : Byte) : Prop :=
  (uopCode w).toNat = 0 ∨ 0xB ≤ (uopCode w).toNat ∨
    (((uopCode w).toNat = 0x2 ∨ (uopCode w).toNat = 0x3) ∧ 10 < (uopRnd w).toNat) ∨
    ((uopCode w).toNat ≠ 0x2 ∧ (uopCode w).toNat ≠ 0x3 ∧ (uopRnd w).toNat ≠ 0)

/-- What decoding a micro-op word may answer: a well-formed instruction when the word is not reserved, a rejection that
names the word when it is. -/
inductive UopVerdict (w : Byte) : Except Reject Instr → Prop
  | decoded {i : Instr} (wf : i.wellFormed = true) (free : ¬ ReservedUop w) : UopVerdict w (.ok i)
  | rejected (reserved : ReservedUop w) : UopVerdict w (.error (.reservedMicroOp w))

section
variable {w : Byte} {c : BitVec 4} (hc : uopCode w = c)
include hc

/-- A code without a round index is reserved exactly when its `RND` is not 0. -/
theorem plainUop_verdict {i : Instr} (plain : c.toNat ≠ 0 ∧ c.toNat ≠ 2 ∧ c.toNat ≠ 3 ∧ c.toNat ≤ 10)
    (wf : i.wellFormed = true) : UopVerdict w (plainUop w i) := by
  subst hc
  obtain ⟨_, notKexp, notArk, _⟩ := plain
  unfold plainUop
  split
  case isTrue h => exact .decoded wf (by simp only [ReservedUop, h, BitVec.toNat_ofNat]; omega)
  case isFalse h =>
    have nonzero : (uopRnd w).toNat ≠ 0 := fun e => h (BitVec.eq_of_toNat_eq e)
    exact .rejected (.inr (.inr (.inr ⟨notKexp, notArk, nonzero⟩)))

/-- KEXP and ARK are reserved exactly when their `RND` is above 10. -/
theorem roundUop_verdict {i : BitVec 4 → Instr} (round : c.toNat = 2 ∨ c.toNat = 3)
    (wf : ∀ k, (i k).wellFormed = isRoundIndex k) : UopVerdict w (roundUop w i) := by
  subst hc
  unfold roundUop
  split
  case isTrue h =>
    have inRange : (uopRnd w).toNat ≤ 10 := of_decide_eq_true h
    exact .decoded ((wf _).trans h) (by simp only [ReservedUop]; omega)
  case isFalse h =>
    have above : 10 < (uopRnd w).toNat := by simpa [isRoundIndex] using h
    exact .rejected (.inr (.inr (.inl ⟨round, above⟩)))

end

/-- Decoding a micro-op word rejects exactly the reserved words, and gives a well-formed instruction for every other. -/
theorem decodeUop_verdict (w : Byte) : UopVerdict w (decodeUop w) := by
  unfold decodeUop
  split_ifs with loads kexp ark sb isb sr isr mc imc store
  · exact plainUop_verdict loads (by decide) rfl
  · exact roundUop_verdict kexp (by decide) fun _ => rfl
  · exact roundUop_verdict ark (by decide) fun _ => rfl
  · exact plainUop_verdict sb (by decide) rfl
  · exact plainUop_verdict isb (by decide) rfl
  · exact plainUop_verdict sr (by decide) rfl
  · exact plainUop_verdict isr (by decide) rfl
  · exact plainUop_verdict mc (by decide) rfl
  · exact plainUop_verdict imc (by decide) rfl
  · exact plainUop_verdict store (by decide) rfl
  · have noCode : (uopCode w).toNat = 0 ∨ 0xB ≤ (uopCode w).toNat := by bv_omega
    exact .rejected (noCode.imp_right .inl)

namespace Machine

/-! ## What faults -/

/-- A well-formed instruction always answers a next state. -/
theorem exec_next {i : Instr} (wf : i.wellFormed = true) (s : State) : ∃ t, exec i s = .next t := by
  have operand : ∀ k, isRoundIndex k = true → ∃ r, roundOperand k = some r := fun k h =>
    ⟨_, roundOperand_some (Nat.lt_succ_of_le (of_decide_eq_true h))⟩
  cases i with
  | kexp k =>
    obtain ⟨r, hr⟩ := operand k wf
    exact ⟨_, by rw [exec, execKexp, hr]⟩
  | ark k =>
    obtain ⟨r, hr⟩ := operand k wf
    exact ⟨_, by rw [exec, execArk, hr]⟩
  | _ => exact ⟨_, rfl⟩

/-- The reserved words are exactly those that fault when they are to be run. -/
theorem runUopWord_fault_iff (w : Byte) (s : State) :
    runUopWord w s = .fault (.reservedMicroOp w) ↔ ReservedUop w := by
  have verdict := decodeUop_verdict w
  unfold runUopWord
  generalize decodeUop w = answer at verdict
  cases verdict with
  | decoded wf free =>
    obtain ⟨t, ht⟩ := exec_next wf s
    simp [ht, free]
  | rejected reserved => simp [reserved]

section
variable {k : BitVec 4} (h : 10 < k.toNat) (s : State)
include h

/-- KEXP with a round index above 10 faults with its word. -/
theorem exec_kexp_fault : exec (.kexp k) s = .fault (.reservedMicroOp (0x2#4 ++ k)) := by
  simp only [exec, execKexp, roundOperand_none (Nat.not_lt.mpr h), uopWord]

/-- ARK with a round index above 10 faults with its word. -/
theorem exec_ark_fault : exec (.ark k) s = .fault (.reservedMicroOp (0x3#4 ++ k)) := by
  simp only [exec, execArk, roundOperand_none (Nat.not_lt.mpr h), uopWord]

end

/-- A transfer never faults. -/
theorem runTransfer_ne_fault (x : Transfer) (s : State) (r : Fault) : runTransfer x s ≠ .fault r := by
  obtain ⟨t, e⟩ := runTransfer_next x s
  simp [e]

/-- No turn faults, whoever takes it: the core's micro-op turn fetches from a micro-program, which holds no reserved word,
and no turn of the host names a micro-op. -/
theorem takeTurn_ne_fault (t : Turn) (s : State) (r : Fault) : takeTurn t s ≠ .fault r := by
  cases t with
  | transfer x => exact runTransfer_ne_fault x s r
  | access a =>
    obtain ⟨x, _, e⟩ | ⟨_, refusal, e⟩ := takeTurn_access a s
    · exact e ▸ runTransfer_ne_fault x s r
    · simp [e]
  | microOp =>
    obtain ⟨t, e⟩ := microStep_next s
    simp [takeTurn, e]
  | completion => simp [takeTurn]
  | reset => simp [takeTurn]

/-! ## The obligations -/

/-- Settles O7: a word faults exactly when `decodeUop` rejects it as reserved, because a decoded instruction is well formed
and so always answers; no turn, and so no step, faults. -/
theorem reservedMicroOpWordsFault : Obligations.ReservedMicroOpWordsFault := by
  unfold Obligations.ReservedMicroOpWordsFault
  refine ⟨fun w s => ?reserved, fun k s h => ⟨exec_kexp_fault h s, exec_ark_fault h s⟩, fun op n => ?programs,
    fun s r => ?steps⟩
  case reserved => rw [runUopWord_fault_iff, ReservedUop, uopCode_toNat, uopRnd_toNat]
  case programs =>
    obtain ⟨i, decodes, _⟩ := uopAt_decodes op n
    exact ⟨i, decodes⟩
  case steps =>
    rw [step_eq_takeTurn]
    exact takeTurn_ne_fault _ _ r

/-- Settles O4: the checks of `commandClass_eq`, with the presence bits of `classOf_eq`, on the bits of each field. -/
theorem commandByteClassByFields : Obligations.CommandByteClassByFields := by
  unfold Obligations.CommandByteClassByFields
  intro v
  simp only [commandClass_eq, classOf_eq, cmdRsv, cmdOp, cmdInP, cmdKeyP, cmdOutP]

end Machine

end Sys2Proof

/-! PROOFS. The constant tables. Settles that the two S-boxes are inverse permutations (40_tables.md R133). Only one composition is
checked entry by entry; the other follows because the bytes are a finite set. -/

namespace Sys2Proof.Machine

/-- The inverse S-box undoes the S-box: R133's check of the two tables, one entry of R130 at a time. -/
theorem leftInverse_invSbox_sbox : Function.LeftInverse invSbox sbox := by
  unfold Function.LeftInverse
  decide

@[simp] theorem invSbox_sbox (b : Byte) : invSbox (sbox b) = b := leftInverse_invSbox_sbox b

/-- A left inverse on a finite set is a right inverse, so the other composition needs no check of the tables. -/
@[simp] theorem sbox_invSbox (b : Byte) : sbox (invSbox b) = b :=
  leftInverse_invSbox_sbox.rightInverse_of_card_le le_rfl b

/-- The S-box is not its own inverse (90_conflicts.md C4): it does not bring 0x00 back. -/
theorem sbox_sbox_zero : sbox (sbox 0x00#8) = 0xfb#8 := by decide

/-! ## The obligations -/

/-- Settles O30: the two compositions are `invSbox_sbox` and `sbox_invSbox`, the counterexample to involution is
`sbox_sbox_zero`. -/
theorem sboxesAreInverse : Obligations.SboxesAreInverse := by
  unfold Obligations.SboxesAreInverse
  exact ⟨invSbox_sbox, sbox_invSbox, sbox_sbox_zero⟩

end Sys2Proof.Machine

/-! PROOFS. The state transforms. Settles the laws of 41_transforms.md: the inverse pairs (R160), the self-inverse AddRoundKey (R161)
and the commutations (R162). The work is the product of the two column matrices (R158, R159): both are cyclic, so one row
of the product settles all four, and the other order of the product follows because the states are a finite set. -/

namespace Sys2Proof

/-- The states are a finite set: a state is its 16 bytes. -/
theorem Mat.finite : Finite Mat :=
  Finite.of_injective Mat.entry fun _ _ h => Mat.ext_entry fun r c => congrFun₂ h r c

namespace Machine

/-! ## The column mixers, row by row -/

/-- Row `r` of the forward matrix is `(2 3 1 1)` turned by `r`: R158's form with indices modulo 4. -/
theorem mixColumn_get (a : Word) (r : Fin 4) :
    (mixColumn a).get r = mul2 (a.get r) ^^^ mul3 (a.get (r + 1)) ^^^ a.get (r + 2) ^^^ a.get (r + 3) := by
  fin_cases r <;> simp [mixColumn, Vector.get_eq_getElem] <;> ac_rfl

/-- Row `r` of the inverse matrix is `(14 11 13 9)` turned by `r`. -/
theorem invMixColumn_get (a : Word) (r : Fin 4) :
    (invMixColumn a).get r =
      mul14 (a.get r) ^^^ mul11 (a.get (r + 1)) ^^^ mul13 (a.get (r + 2)) ^^^ mul9 (a.get (r + 3)) := by
  fin_cases r <;> simp [invMixColumn, Vector.get_eq_getElem] <;> ac_rfl

/-! ## The product of the two matrices -/

/-- Row `(14 11 13 9)` of the inverse matrix times the four columns of the forward matrix. Each product is a sum of repeated
doublings of `x`, where every one cancels but the undoubled `x` of the first. -/
theorem invRow_mul_columns (x : Byte) :
    (mul14 (mul2 x) ^^^ mul11 x ^^^ mul13 x ^^^ mul9 (mul3 x) = x) ∧
    (mul14 (mul3 x) ^^^ mul11 (mul2 x) ^^^ mul13 x ^^^ mul9 x = 0#8) ∧
    (mul14 x ^^^ mul11 (mul3 x) ^^^ mul13 (mul2 x) ^^^ mul9 x = 0#8) ∧
    (mul14 x ^^^ mul11 x ^^^ mul13 (mul3 x) ^^^ mul9 (mul2 x) = 0#8) := by
  have leftComm (a b c : Byte) : a ^^^ (b ^^^ c) = b ^^^ (a ^^^ c) := by ac_rfl
  simp only [mul2, mul3, mul9, mul11, mul13, mul14, xtime_xor]
  refine ⟨?_, ?_, ?_, ?_⟩ <;> simp [BitVec.xor_assoc, BitVec.xor_comm, leftComm]

/-- The inverse row applied to a mixed column gives back its first byte: additivity sorts the sum by the bytes. -/
theorem invRow_mixed (x₀ x₁ x₂ x₃ : Byte) :
    mul14 (mul2 x₀ ^^^ mul3 x₁ ^^^ x₂ ^^^ x₃) ^^^ mul11 (mul2 x₁ ^^^ mul3 x₂ ^^^ x₃ ^^^ x₀) ^^^
      mul13 (mul2 x₂ ^^^ mul3 x₃ ^^^ x₀ ^^^ x₁) ^^^ mul9 (mul2 x₃ ^^^ mul3 x₀ ^^^ x₁ ^^^ x₂) = x₀ := by
  calc
    _ = (mul14 (mul2 x₀) ^^^ mul11 x₀ ^^^ mul13 x₀ ^^^ mul9 (mul3 x₀)) ^^^
        (mul14 (mul3 x₁) ^^^ mul11 (mul2 x₁) ^^^ mul13 x₁ ^^^ mul9 x₁) ^^^
        (mul14 x₂ ^^^ mul11 (mul3 x₂) ^^^ mul13 (mul2 x₂) ^^^ mul9 x₂) ^^^
        (mul14 x₃ ^^^ mul11 x₃ ^^^ mul13 (mul3 x₃) ^^^ mul9 (mul2 x₃)) := by
      simp only [mul9_xor, mul11_xor, mul13_xor, mul14_xor]; ac_rfl
    _ = x₀ := by simp [invRow_mul_columns]

/-- The inverse mixer undoes the mixer on a column. -/
@[simp] theorem invMixColumn_mixColumn (a : Word) : invMixColumn (mixColumn a) = a := vector_ext_get fun r => by
  simp only [invMixColumn_get, mixColumn_get, add_assoc, Fin.reduceAdd, add_zero]
  exact invRow_mixed _ _ _ _

/-! ## Inverse pairs (R160) -/

@[simp] theorem invSubBytes_subBytes (s : Mat) : invSubBytes (subBytes s) = s := Mat.ext_entry fun r c => by simp

@[simp] theorem subBytes_invSubBytes (s : Mat) : subBytes (invSubBytes s) = s := Mat.ext_entry fun r c => by simp

@[simp] theorem invShiftRows_shiftRows (s : Mat) : invShiftRows (shiftRows s) = s := Mat.ext_entry fun r c => by simp

@[simp] theorem shiftRows_invShiftRows (s : Mat) : shiftRows (invShiftRows s) = s := Mat.ext_entry fun r c => by simp

theorem leftInverse_invMixColumns_mixColumns : Function.LeftInverse invMixColumns mixColumns := fun s =>
  Mat.ext_entry fun r c => by simp

@[simp] theorem invMixColumns_mixColumns (s : Mat) : invMixColumns (mixColumns s) = s :=
  leftInverse_invMixColumns_mixColumns s

/-- MixColumns is one-to-one, so on a finite set it reaches every state, and its left inverse is a right inverse. -/
@[simp] theorem mixColumns_invMixColumns (s : Mat) : mixColumns (invMixColumns s) = s :=
  have := Mat.finite
  have onto := Finite.surjective_of_injective leftInverse_invMixColumns_mixColumns.injective
  leftInverse_invMixColumns_mixColumns.rightInverse_of_surjective onto s

/-! ## AddRoundKey (R153, R161) -/

@[simp] theorem addRoundKey_addRoundKey (s k : Mat) : addRoundKey (addRoundKey s k) k = s :=
  Mat.ext_entry fun r c => by simp

@[simp] theorem zero_addRoundKey (k : Mat) : addRoundKey Mat.zero k = k := Mat.ext_entry fun r c => by simp

/-! ## Commutations (R162) -/

/-- One acts on each byte alone, the other only moves bytes. -/
theorem subBytes_shiftRows (s : Mat) : subBytes (shiftRows s) = shiftRows (subBytes s) :=
  Mat.ext_entry fun r c => by simp

theorem invSubBytes_invShiftRows (s : Mat) : invSubBytes (invShiftRows s) = invShiftRows (invSubBytes s) :=
  Mat.ext_entry fun r c => by simp

/-- InvMixColumns keeps the zero state. -/
theorem invMixColumns_zero : invMixColumns Mat.zero = Mat.zero := by decide

/-- The block of the key in R162's example: only `k[0][0]` is not zero. -/
def cornerBlock : Block := #v[0x01, 0, 0, 0, 0, 0, 0, 0, 0, 0, 0, 0, 0, 0, 0, 0]

theorem load_cornerBlock_entry (r c : Fin 4) :
    (load cornerBlock).entry r c = if r = 0 ∧ c = 0 then 0x01#8 else 0x00#8 := by
  revert r c
  decide

/-- InvMixColumns spreads the one byte over its column, as the first column of its matrix (R159). -/
theorem store_invMixColumns_cornerBlock :
    store (invMixColumns (load cornerBlock)) =
      #v[0x0e, 0x09, 0x0d, 0x0b, 0, 0, 0, 0, 0, 0, 0, 0, 0, 0, 0, 0] := by decide

/-! ## The obligations -/

/-- Settles O34: the S-boxes are inverse byte by byte, the two rotations cancel, and the column matrices are inverse. -/
theorem transformsAreInversePairs : Obligations.TransformsAreInversePairs := by
  unfold Obligations.TransformsAreInversePairs
  exact fun s => ⟨invSubBytes_subBytes s, subBytes_invSubBytes s, invShiftRows_shiftRows s, shiftRows_invShiftRows s,
    invMixColumns_mixColumns s, mixColumns_invMixColumns s⟩

/-- Settles O36: the two commutations, and the two orders of AddRoundKey and InvMixColumns evaluated at the only state and
key that R162's example describes. -/
theorem commutationOfTransforms : Obligations.CommutationOfTransforms := by
  unfold Obligations.CommutationOfTransforms
  refine ⟨subBytes_shiftRows, invSubBytes_invShiftRows, fun s k hs hk => ?orders⟩
  have zeroState : s = Mat.zero := Mat.ext_entry fun r c => by rw [hs, Mat.zero_entry]
  have cornerKey : k = load cornerBlock := Mat.ext_entry fun r c => by rw [hk, load_cornerBlock_entry]
  rw [zeroState, cornerKey, invMixColumns_zero, zero_addRoundKey, store_load]
  exact ⟨store_invMixColumns_cornerBlock, rfl⟩

/-- Settles O35: each byte is XORed twice with the same key byte. -/
theorem addRoundKeyIsSelfInverse : Obligations.AddRoundKeyIsSelfInverse := by
  unfold Obligations.AddRoundKeyIsSelfInverse
  exact addRoundKey_addRoundKey

end Machine

end Sys2Proof

/-! PROOFS. The key schedule. Settles its word form (42_key_expansion.md R185). One rule says what the body of the loop of R183
makes of each byte group, one says that every round key of the finished schedule is that body's image of the one before;
the word form reads the two at byte group `m % 4` of round key `m / 4`. -/

namespace Sys2Proof.Machine

/-! ## The operations on words, byte by byte (R180 to R182) -/

@[simp] theorem rotWord_get (t : Word) (u : Fin 4) : (rotWord t).get u = t.get (u + 1) := by
  fin_cases u <;> rfl

@[simp] theorem subWord_get (t : Word) (u : Fin 4) : (subWord t).get u = sbox (t.get u) := by
  fin_cases u <;> rfl

/-- Only byte 0 takes the round constant. -/
@[simp] theorem addRcon_get (j : Fin 10) (t : Word) (u : Fin 4) :
    (addRcon j t).get u = t.get u ^^^ (if u = 0 then rcon.get j else 0x00#8) := by
  fin_cases u <;> simp [addRcon, Vector.get_eq_getElem]

@[simp] theorem xorWord_get (a b : Word) (u : Fin 4) : (xorWord a b).get u = a.get u ^^^ b.get u := by
  fin_cases u <;> rfl

/-! ## The byte groups of the next round key (R183, R184) -/

/-- The byte groups of a round key are the words it was put together from. -/
theorem group_ofGroups (g0 g1 g2 g3 : Word) (g : Fin 4) :
    group (ofGroups g0 g1 g2 g3) g = #v[g0, g1, g2, g3].get g := by
  refine vector_ext_get fun u => ?_
  rw [group_get]
  fin_cases g <;> fin_cases u <;> rfl

/-- Group 0 takes the last group of the round key before, rotated, substituted and given its round constant. -/
theorem group_nextRoundKey_zero (j : Fin 10) (p : Block) :
    group (nextRoundKey j p) 0 = xorWord (group p 0) (addRcon j (subWord (rotWord (group p 3)))) :=
  group_ofGroups _ _ _ _ 0

/-- Groups 1 to 3 are chained: each takes the group just computed. -/
theorem group_nextRoundKey_succ (j : Fin 10) (p : Block) (g : Fin 3) :
    group (nextRoundKey j p) g.succ = xorWord (group p g.succ) (group (nextRoundKey j p) g.castSucc) := by
  simp only [nextRoundKey, group_ofGroups]
  fin_cases g <;> rfl

/-! ## The round keys of the finished schedule -/

/-- Expanding some rounds leaves the round key of any other round alone. -/
theorem foldl_expandInto_other {key : Block} {ks : List RoundIndex} {j : RoundIndex} (w : Schedule) (h : j ∉ ks) :
    (ks.foldl (fun w k => expandInto k key w) w).get j = w.get j := by
  induction ks generalizing w with
  | nil => rfl
  | cons k ks ih =>
    rw [List.foldl_cons, ih _ (List.not_mem_of_not_mem_cons h),
      expandInto_other k j key w (List.ne_of_not_mem_cons h)]

/-- Round `j + 1` comes once, and round `j` before it. -/
theorem allRounds_split (j : Fin 10) :
    ∃ before after, allRounds = before ++ j.succ :: after ∧ j.succ ∉ after ∧ j.castSucc ∉ after := by
  refine ⟨allRounds.take j.succ, allRounds.drop (j.succ + 1), ?_⟩
  revert j
  decide

/-- Round key 0 of the schedule is the key. -/
@[simp] theorem keyExpansion_get_zero (key : Block) : (keyExpansion key).get 0 = key := by
  rw [keyExpansion, allRounds, List.foldl_cons, foldl_expandInto_other _ (by decide), expandInto_zero]
  simp [vector_get_set]

/-- Each later round key is computed from the one before it: both stand as they are from the moment it is. -/
theorem keyExpansion_get_succ (key : Block) (j : Fin 10) :
    (keyExpansion key).get j.succ = nextRoundKey j ((keyExpansion key).get j.castSucc) := by
  obtain ⟨before, after, split, self, previous⟩ := allRounds_split j
  simp only [keyExpansion, split, List.foldl_append, List.foldl_cons]
  rw [foldl_expandInto_other _ self, foldl_expandInto_other _ previous, expandInto_succ]
  simp [vector_get_set]

/-! ## The words of the schedule -/

/-- Word `m` of the schedule is byte group `m % 4` of round key `m / 4`. -/
theorem schedule_byte_eq_group_get (w : Schedule) {n : Fin 176} {k : RoundIndex} {g u : Fin 4}
    (h : n.val = 4 * (4 * k.val + g.val) + u.val) : w.byte n = (group (w.get k) g).get u := by
  rw [Schedule.byte, group_get]
  congr 1
  · congr 1; ext; simp only; omega
  · ext; simp only; omega

/-! ## The obligation -/

/-- Settles O37: word `m` is group `m % 4` of round key `m / 4`, so the word before it is the group before it, or the last
group of the round key before. -/
theorem keyExpansionWordForm : Obligations.KeyExpansionWordForm := by
  unfold Obligations.KeyExpansionWordForm
  intro key w hw
  have word {m : Fin 44} {k : RoundIndex} {g u : Fin 4} (h : m.val = 4 * k.val + g.val) :
      w m u = (group ((keyExpansion key).get k) g).get u :=
    (hw m u).trans (schedule_byte_eq_group_get _ (by simp only [h]))
  refine ⟨fun m u => ?first, fun m hm u => ?later⟩
  case first => rw [word (k := 0) (g := m) (by simp), keyExpansion_get_zero, group_get]
  case later =>
    obtain ⟨j, hj⟩ : ∃ j : Fin 10, m.val / 4 = j.val + 1 := ⟨⟨m.val / 4 - 1, by omega⟩, by simp only; omega⟩
    refine ⟨fun chained => ?chained, fun rotated => ?rotated⟩
    case chained =>
      obtain ⟨g, hg⟩ : ∃ g : Fin 3, m.val % 4 = g.val + 1 := ⟨⟨m.val % 4 - 1, by omega⟩, by simp only; omega⟩
      rw [word (m := m) (k := j.succ) (g := g.succ) (by simp; omega),
        word (k := j.castSucc) (g := g.succ) (by simp; omega), word (k := j.succ) (g := g.castSucc) (by simp; omega),
        keyExpansion_get_succ, group_nextRoundKey_succ, xorWord_get]
    case rotated =>
      have round : (⟨m.val / 4 - 1, by omega⟩ : Fin 10) = j := Fin.ext (by simp only; omega)
      rw [word (m := m) (k := j.succ) (g := 0) (by simp; omega),
        word (k := j.castSucc) (g := 0) (by simp; omega), word (k := j.castSucc) (g := 3) (by simp; omega),
        keyExpansion_get_succ, group_nextRoundKey_zero, round]
      simp only [xorWord_get, addRcon_get, subWord_get, rotWord_get, BitVec.xor_assoc]

end Sys2Proof.Machine

/-! PROOFS. The block functions. Settles that encrypting and decrypting with one key undo each other (43_cipher.md R208). A round and
its inverse do not cut the transforms at the same places: a decryption round undoes an encryption round across the
substitution and row shift of the round before. One lemma runs such a pair of rounds down a list of round keys, and it
serves both orders. -/

namespace Sys2Proof.Machine

/-! ## The part of a round without key and mixing (R201) -/

/-- SubBytes and ShiftRows, which open every round of encryption. -/
def subShift (s : Mat) : Mat := shiftRows (subBytes s)

/-- InvShiftRows and InvSubBytes, which open every round of decryption. -/
def invSubShift (s : Mat) : Mat := invSubBytes (invShiftRows s)

@[simp] theorem invSubShift_subShift (s : Mat) : invSubShift (subShift s) = s := by simp [invSubShift, subShift]

@[simp] theorem subShift_invSubShift (s : Mat) : subShift (invSubShift s) = s := by simp [invSubShift, subShift]

theorem encRound_eq (s k : Mat) : encRound s k = addRoundKey (mixColumns (subShift s)) k := rfl

theorem encFinal_eq (s k : Mat) : encFinal s k = addRoundKey (subShift s) k := rfl

theorem decRound_eq (s k : Mat) : decRound s k = invMixColumns (addRoundKey (invSubShift s) k) := rfl

theorem decFinal_eq (s k : Mat) : decFinal s k = addRoundKey (invSubShift s) k := rfl

/-! ## Rounds that undo each other -/

/-- A decryption round takes the substituted and shifted image of a round's result to that of the state it began with. -/
theorem decRound_subShift_encRound (s k : Mat) : decRound (subShift (encRound s k)) k = subShift s := by
  simp [encRound_eq, decRound_eq]

/-- The same of an encryption round after a decryption round. -/
theorem encRound_invSubShift_decRound (s k : Mat) : encRound (invSubShift (decRound s k)) k = invSubShift s := by
  simp [encRound_eq, decRound_eq]

/-- Rounds `back` that undo the rounds `forth` one by one, each across `u`, undo a list of them in reverse, under any round
keys. -/
theorem foldl_reverse_undoes {forth back : Mat → Mat → Mat} {u : Mat → Mat}
    (undoes : ∀ s k, back (u (forth s k)) k = u s) (w : Schedule) (rounds : List RoundIndex) (s : Mat) :
    rounds.reverse.foldl (fun s r => back s (roundKey w r)) (u (rounds.foldl (fun s r => forth s (roundKey w r)) s)) =
      u s := by
  induction rounds generalizing s with
  | nil => rfl
  | cons r rounds ih => rw [List.foldl_cons, List.reverse_cons, List.foldl_concat, ih, undoes]

/-! ## The obligation -/

/-- Decrypting undoes encrypting: the last round keys cancel, then the nine rounds, then the first round keys. -/
theorem invCipher_cipher (b key : Block) : invCipher (cipher b key) key = b := by
  simp only [cipher, invCipher, encFinal_eq, decFinal_eq, load_store, addRoundKey_addRoundKey]
  rw [foldl_reverse_undoes decRound_subShift_encRound, invSubShift_subShift, addRoundKey_addRoundKey, store_load]

/-- Encrypting undoes decrypting, whose rounds are those of the reversed list. -/
theorem cipher_invCipher (b key : Block) : cipher (invCipher b key) key = b := by
  have undone := foldl_reverse_undoes encRound_invSubShift_decRound (keyExpansion key) middleRounds.reverse
  rw [List.reverse_reverse] at undone
  simp only [cipher, invCipher, encFinal_eq, decFinal_eq, load_store, addRoundKey_addRoundKey]
  rw [undone, subShift_invSubShift, addRoundKey_addRoundKey, store_load]

/-- Settles O38, by undoing the rounds from the last to the first in each order. -/
theorem cipherRoundTrip : Obligations.CipherRoundTrip := by
  unfold Obligations.CipherRoundTrip
  exact fun b key => ⟨invCipher_cipher b key, cipher_invCipher b key⟩

end Sys2Proof.Machine

/-! PROOFS. The micro-ops. Settles what each micro-op of 43_cipher.md does to the state and what it leaves unchanged (R210 to R219).
All but KEXP and STORE replace the state matrix and nothing else, which one lemma says for them together. -/

namespace Sys2Proof.Machine

/-! ## The words of KEXP and ARK (R110, R111) -/

theorem decodeUop_kexp {k : BitVec 4} (hk : k.toNat ≤ 10) : decodeUop (0x20#8 + k.setWidth 8) = .ok (.kexp k) := by
  revert k; decide

theorem decodeUop_ark {k : BitVec 4} (hk : k.toNat ≤ 10) : decodeUop (0x30#8 + k.setWidth 8) = .ok (.ark k) := by
  revert k; decide

/-! ## Micro-ops that replace the state matrix -/

/-- An instruction that runs a transform on `HID.S` puts the transform's elements there and changes nothing else. -/
theorem exec_onS {i : Instr} {s : State} {f : Mat → Mat} {g : Fin 4 → Fin 4 → Byte}
    (runs : exec i s = .next (onS f s)) (image : ∀ r c, (f s.hidS).entry r c = g r c) :
    ∃ t, exec i s = .next t ∧ (∀ r c, t.hidS.entry r c = g r c) ∧ t = { s with hidS := t.hidS } :=
  ⟨onS f s, runs, image, rfl⟩

/-- LOADS puts the transform that forgets its argument on `HID.S`. -/
theorem exec_loads (s : State) : exec .loads s = .next (onS (fun _ => load s.hidSin) s) := rfl

theorem exec_ark {k : BitVec 4} (hk : k.toNat < 11) (s : State) :
    exec (.ark k) s = .next (onS (fun m => addRoundKey m (roundKey s.hidW ⟨k.toNat, hk⟩)) s) := by
  rw [exec, execArk, roundOperand_some hk]

/-! ## The products of the column mixer (R151)

The bit-serial product adds the doublings from the lowest up, the constant products from the highest down. -/

section
variable (x : Byte)

theorem gfMul_2 : gfMul 2#8 x = mul2 x := by simp [gfMul, gfMulBits, mul2]

theorem gfMul_3 : gfMul 3#8 x = mul3 x := by simp [gfMul, gfMulBits, mul3, BitVec.xor_comm]

theorem gfMul_9 : gfMul 9#8 x = mul9 x := by simp [gfMul, gfMulBits, mul9, BitVec.xor_comm]

theorem gfMul_11 : gfMul 11#8 x = mul11 x := by simp [gfMul, gfMulBits, mul11, BitVec.xor_comm]

theorem gfMul_13 : gfMul 13#8 x = mul13 x := by simp [gfMul, gfMulBits, mul13, BitVec.xor_comm]

theorem gfMul_14 : gfMul 14#8 x = mul14 x := by simp [gfMul, gfMulBits, mul14, BitVec.xor_comm]

end

/-! ## The bytes of the schedule -/

/-- Byte `16k + i` of the schedule is byte `i` of round key `k` (R12). -/
theorem schedule_byte_eq_get (w : Schedule) {n : Fin 176} {k : RoundIndex} {i : Fin 16} (h : n.val = 16 * k.val + i.val) :
    w.byte n = (w.get k).get i := by
  rw [Schedule.byte]
  congr 1
  · congr 1; ext; simp only; omega
  · ext; simp only; omega

theorem exec_kexp {k : BitVec 4} (hk : k.toNat < 11) (s : State) :
    exec (.kexp k) s = .next { s with hidW := expandInto ⟨k.toNat, hk⟩ s.hidSkey s.hidW } := by
  rw [exec, execKexp, roundOperand_some hk]

section
variable (key : Block) (w : Schedule)

/-- KEXP k leaves the bytes of every other round key. -/
theorem expandInto_byte_other {k : RoundIndex} {n : Fin 176} (h : n.val / 16 ≠ k.val) :
    (expandInto k key w).byte n = w.byte n := by
  have other : (⟨n.val / 16, by omega⟩ : RoundIndex) ≠ k := fun e => h (congrArg Fin.val e)
  rw [Schedule.byte, expandInto_other k _ key w other, Schedule.byte]

@[simp] theorem expandInto_get_zero : (expandInto 0 key w).get 0 = key := by
  simp [expandInto_zero, vector_get_set]

@[simp] theorem expandInto_get_succ (j : Fin 10) :
    (expandInto j.succ key w).get j.succ = nextRoundKey j (w.get j.castSucc) := by
  simp [expandInto_succ, vector_get_set]

/-- Steps 1 to 3 of the loop's body (R183): group 0 of round key `j + 1`. -/
theorem expandInto_byte_first (j : Fin 10) (u : Fin 4) :
    (expandInto j.succ key w).byte ⟨16 * (j.val + 1) + u.val, by omega⟩ =
      w.byte ⟨16 * j.val + u.val, by omega⟩ ^^^
        (sbox (w.byte ⟨16 * j.val + (12 + (u + 1).val), by omega⟩) ^^^ (if u = 0 then rcon.get j else 0x00#8)) := by
  rw [schedule_byte_eq_group_get _ (k := j.succ) (g := 0) (u := u) (by simp; omega),
    schedule_byte_eq_group_get w (k := j.castSucc) (g := 0) (u := u) (by simp; omega),
    schedule_byte_eq_group_get w (k := j.castSucc) (g := 3) (u := u + 1) (by simp; omega),
    expandInto_get_succ, group_nextRoundKey_zero, xorWord_get, addRcon_get, subWord_get, rotWord_get]

/-- Steps 4 to 6 of the loop's body (R183, R184): groups 1 to 3 of round key `j + 1`. -/
theorem expandInto_byte_chained (j : Fin 10) (g : Fin 3) (u : Fin 4) :
    (expandInto j.succ key w).byte ⟨16 * (j.val + 1) + 4 * (g.val + 1) + u.val, by omega⟩ =
      w.byte ⟨16 * j.val + 4 * (g.val + 1) + u.val, by omega⟩ ^^^
        (expandInto j.succ key w).byte ⟨16 * (j.val + 1) + 4 * g.val + u.val, by omega⟩ := by
  rw [schedule_byte_eq_group_get _ (k := j.succ) (g := g.succ) (u := u) (by simp; omega),
    schedule_byte_eq_group_get w (k := j.castSucc) (g := g.succ) (u := u) (by simp; omega),
    schedule_byte_eq_group_get _ (k := j.succ) (g := g.castSucc) (u := u) (by simp; omega),
    expandInto_get_succ, group_nextRoundKey_succ, xorWord_get]

end

/-! ## The end of a micro-program (R220, R221) -/

/-- STORE stands at the last place of both micro-programs and nowhere else. -/
theorem decodeUop_uopAt_eq_store_iff (op : OpSel) (n : UopIndex) :
    decodeUop (uopAt op n) = .ok .store ↔ n.val = 52 := by
  revert n
  cases op <;> decide

/-! ## The obligations -/

/-- Settles O24: `exec_kexp` gives the new schedule; round key 0 is the key, and for `k >= 1` each byte is read off the two
rules of the loop's body with `j = k - 1`. -/
theorem kexpWritesOneRoundKey : Obligations.KexpWritesOneRoundKey := by
  unfold Obligations.KexpWritesOneRoundKey
  intro s k hk
  refine ⟨decodeUop_kexp hk, _, exec_kexp (Nat.lt_succ_of_le hk) s, rfl,
    fun n other => expandInto_byte_other _ _ other, fun zero j => ?zero, fun hk1 => ?later⟩
  case zero =>
    have round : (⟨k.toNat, Nat.lt_succ_of_le hk⟩ : RoundIndex) = 0 := Fin.ext zero
    rw [round, schedule_byte_eq_get (k := 0) (i := j) _ (by simp), expandInto_get_zero]
  case later =>
    obtain ⟨j, hj⟩ : ∃ j : Fin 10, k.toNat = j.val + 1 := ⟨⟨k.toNat - 1, by omega⟩, by simp only; omega⟩
    have round : (⟨k.toNat, Nat.lt_succ_of_le hk⟩ : RoundIndex) = j.succ := Fin.ext hj
    have first := expandInto_byte_first s.hidSkey s.hidW j
    rw [round]
    simp only [hj, Nat.add_sub_cancel]
    exact ⟨by simpa using first 0, by simpa using first 1, by simpa using first 2, by simpa using first 3,
      expandInto_byte_chained s.hidSkey s.hidW j⟩

/-- Settles O25: byte `16k + r + 4c` of the schedule is the element `(r, c)` of round key `k`. -/
theorem arkAddsRoundKey : Obligations.ArkAddsRoundKey := by
  unfold Obligations.ArkAddsRoundKey
  intro s k hk
  refine ⟨decodeUop_ark hk, exec_onS (exec_ark (Nat.lt_succ_of_le hk) s) fun r c => ?_⟩
  rw [addRoundKey_entry, roundKey_entry, schedule_byte_eq_get]
  simp only; omega

/-- Settles O27: an index of `Fin 4` is taken modulo 4. -/
theorem rowShifterRotatesRows : Obligations.RowShifterRotatesRows := by
  unfold Obligations.RowShifterRotatesRows
  refine ⟨rfl, rfl, fun s => ⟨exec_onS rfl fun r c => ?left, exec_onS rfl fun r c => ?right⟩⟩
  case left => exact shiftRows_entry s.hidS r c
  case right =>
    rw [invShiftRows_entry]
    congr 1
    ext
    simp only [Fin.val_sub]; omega

/-- Settles O28: row `r` of each matrix is its first row turned by `r`, and its products are those of the field. -/
theorem columnMixerMultipliesColumns : Obligations.ColumnMixerMultipliesColumns := by
  unfold Obligations.ColumnMixerMultipliesColumns
  refine ⟨rfl, rfl, fun s => ⟨exec_onS rfl fun r c => ?mc, exec_onS rfl fun r c => ?imc⟩⟩
  case mc => simp only [mixColumns_entry, mixColumn_get, column_get, gfMul_2, gfMul_3]
  case imc => simp only [invMixColumns_entry, invMixColumn_get, column_get, gfMul_9, gfMul_11, gfMul_13, gfMul_14]

/-- Settles O23: LOADS is the transform that puts `load(SIN)` in place of any state. -/
theorem loadsFillsStateByColumns : Obligations.LoadsFillsStateByColumns := by
  unfold Obligations.LoadsFillsStateByColumns
  exact ⟨rfl, fun s => exec_onS (exec_loads s) (load_entry s.hidSin)⟩

/-- Settles O26: the two transforms act on each byte alone. -/
theorem byteSubstituterMapsEachByte : Obligations.ByteSubstituterMapsEachByte := by
  unfold Obligations.ByteSubstituterMapsEachByte
  exact ⟨rfl, rfl, fun s => ⟨exec_onS rfl (subBytes_entry s.hidS), exec_onS rfl (invSubBytes_entry s.hidS)⟩⟩

/-- Settles O29: while BUSY = 1 the completion step is enabled. -/
theorem storeCompletesOperation : Obligations.StoreCompletesOperation := by
  unfold Obligations.StoreCompletesOperation
  refine ⟨rfl, fun s busy => ⟨completeWith (store s.hidS) s, rfl, ?_⟩, decodeUop_uopAt_eq_store_iff⟩
  rw [completeWith_busy _ busy]
  simp

end Sys2Proof.Machine

/-! PROOFS. The commands. Settles the whole effect of a byte written to CMD (44_commands.md R230, R254). `writeCommand_cases` says what
each class of byte does to the state; `commandClass_eq_checks` gives the class by the two checks R254 makes on the byte, in its
order. -/

namespace Sys2Proof.Machine

/-! ## The class of a byte, in the order of the checks (R254) -/

/-- A reserved bit is 1, or OP is one of its two reserved codes (R106). -/
abbrev NamesNoOperation (v : Byte) : Prop :=
  v.extractLsb' 5 3 ≠ 0b000#3 ∨ v.extractLsb' 0 2 = 0b00#2 ∨ v.extractLsb' 0 2 = 0b11#2

/-- A presence bit is 0 (R105). -/
abbrev LacksBuffer (v : Byte) : Prop := v.getLsbD 2 = false ∨ v.getLsbD 3 = false ∨ v.getLsbD 4 = false

/-- The operation of an OP that is not reserved (R104). -/
def namedOperation (v : Byte) : OpSel := if v.extractLsb' 0 2 = 0b01#2 then .enc else .dec

/-- OP has four codes, so once the reserved ones are out the named operation alone tells the other two apart. -/
theorem commandClass_eq_checks (v : Byte) :
    commandClass v =
      if NamesNoOperation v then .illegal
      else if LacksBuffer v then .absent (namedOperation v)
      else .run (namedOperation v) := by
  have codes : ∀ op : BitVec 2, op = 0b00#2 ∨ op = 0b01#2 ∨ op = 0b10#2 ∨ op = 0b11#2 := by decide
  rw [commandByteClassByFields v]
  by_cases reserved : v.extractLsb' 5 3 = 0b000#3
  · obtain op | op | op | op := codes (v.extractLsb' 0 2) <;>
      simp [NamesNoOperation, LacksBuffer, namedOperation, reserved, op]
  · simp [NamesNoOperation, reserved]

section
variable {v : Byte} {op : OpSel}

theorem commandClass_eq_illegal_iff : commandClass v = .illegal ↔ NamesNoOperation v := by
  rw [commandClass_eq_checks]
  split_ifs <;> simp [*]

theorem commandClass_eq_absent_iff :
    commandClass v = .absent op ↔ ¬ NamesNoOperation v ∧ LacksBuffer v ∧ namedOperation v = op := by
  rw [commandClass_eq_checks]
  split_ifs <;> simp [*]

theorem commandClass_eq_run_iff :
    commandClass v = .run op ↔ ¬ NamesNoOperation v ∧ ¬ LacksBuffer v ∧ namedOperation v = op := by
  rw [commandClass_eq_checks]
  split_ifs <;> simp [*]

end

/-! ## The obligation -/

/-- Settles O20: the four cases of `writeCommand_cases` are the four branches, the class of the byte giving which of its checks
applied. -/
theorem commandWriteChecksInOrder : Obligations.CommandWriteChecksInOrder := by
  unfold Obligations.CommandWriteChecksInOrder
  intro s rest v h
  rw [step_write_cmd h rfl]
  obtain ⟨busy, e⟩ | ⟨idle, op, runs, e⟩ | ⟨idle, ⟨op, lacks⟩, e⟩ | ⟨idle, unnamed, e⟩ :=
    writeCommand_cases v { s with turns := rest }
  · exact ⟨_, e, by rw [if_pos busy]⟩
  · obtain ⟨legal, present, rfl⟩ := commandClass_eq_run_iff.mp runs
    exact ⟨_, e, by rw [if_neg (ne_true_of_eq_false idle), if_neg legal, if_neg present]; rfl⟩
  · obtain ⟨legal, absent, -⟩ := commandClass_eq_absent_iff.mp lacks
    exact ⟨_, e, by rw [if_neg (ne_true_of_eq_false idle), if_neg legal, if_pos absent]; rfl⟩
  · have illegal := commandClass_eq_illegal_iff.mp unnamed
    exact ⟨_, e, by rw [if_neg (ne_true_of_eq_false idle), if_pos illegal]; rfl⟩

end Sys2Proof.Machine

/-! PROOFS. The errors. Settles what INVALID_ARGUMENT and ILLEGAL_COMMAND leave behind (60_exceptions.md R250 to R252). The first is
the same effect for both commands; the second is one branch of the whole command write. -/

namespace Sys2Proof.Machine

/-- A command accepted with a buffer absent leaves the INVALID_ARGUMENT report and no other trace, whichever operation it
names (R233, R250). -/
theorem accept_commandEffect_absent (op : OpSel) {i k o : Bool} {s : State} (idle : s.busy = false)
    (absent : i = false ∨ k = false ∨ o = false) :
    accept (commandEffect op i k o) s = { s with done := false, err := true, errCause := causeInvalidArgument } := by
  rw [accept_idle _ idle, commandEffect_absent op ((allPresent_eq_false_iff i k o).mpr absent)]
  rfl

/-! ## The obligations -/

/-- Settles O17: both commands are acceptance of `commandEffect`, which with a buffer absent only reports. -/
theorem absentBufferRaisesInvalidArgument : Obligations.AbsentBufferRaisesInvalidArgument := by
  unfold Obligations.AbsentBufferRaisesInvalidArgument
  intro s i k o idle absent
  rw [exec_encrypt, exec_decrypt, accept_commandEffect_absent .enc idle absent,
    accept_commandEffect_absent .dec idle absent]
  exact ⟨rfl, rfl⟩

/-- Settles O18: the branch of `commandWriteChecksInOrder` for an idle core and an illegal byte, which stands before the
look at the presence bits. -/
theorem illegalByteRaisesIllegalCommand : Obligations.IllegalByteRaisesIllegalCommand := by
  unfold Obligations.IllegalByteRaisesIllegalCommand
  intro s rest v h idle illegal
  obtain ⟨t, e, branch⟩ := commandWriteChecksInOrder s rest v h
  rw [if_neg (ne_true_of_eq_false idle), if_pos illegal] at branch
  rw [e, branch]

end Sys2Proof.Machine

/-! PROOFS. Decoding and encoding. Settles that the decoder and the encoder undo each other (30_encoding.md R103 to R112). A command
and a micro-op go through the decoder of their own kind; the two kinds share no byte, so the joint decoder reads each as its own
decoder does. -/

namespace Sys2Proof

/-! ## The two kinds share no byte -/

/-- A byte that is a micro-op word is no command: a command has `RSV = 000` and `OP` 01 or 10, and the only micro-op word
below 0x20, LOADS, has `OP = 00` (assumption log 9). -/
theorem decodeCommand_of_decodeUop {b : Byte} {i : Instr} (h : decodeUop b = .ok i) :
    decodeCommand b = .error (.illegalCommand b) := by
  have disjoint : ∀ b, (decodeUop b).isOk = true → (decodeCommand b).isOk = false := by decide
  have notCommand := disjoint b (by rw [h]; rfl)
  obtain ⟨_, _, _, e⟩ | ⟨_, _, _, e⟩ | e := Machine.decodeCommand_cases b
  · rw [e] at notCommand; cases notCommand
  · rw [e] at notCommand; cases notCommand
  · exact e

/-- The joint decoder reads a command as the decoder of CMD bytes does. -/
theorem decodeByte_of_decodeCommand {b : Byte} {i : Instr} (h : decodeCommand b = .ok i) : decodeByte b = .ok i := by
  simp [decodeByte, h]

/-- The joint decoder reads a micro-op as the decoder of micro-op words does. -/
theorem decodeByte_of_decodeUop {b : Byte} {i : Instr} (h : decodeUop b = .ok i) : decodeByte b = .ok i := by
  simp [decodeByte, decodeCommand_of_decodeUop h, h]

/-- What the joint decoder reads, the decoder of one of the kinds has read. -/
theorem decodeByte_eq_ok {b : Byte} {i : Instr} (h : decodeByte b = .ok i) :
    decodeCommand b = .ok i ∨ decodeUop b = .ok i := by
  unfold decodeByte at h
  split at h
  case h_1 j hc => exact .inl (hc.trans h)
  case h_2 =>
    split at h
    case h_1 j hu => exact .inr (hu.trans h)
    case h_2 => cases h

/-! ## Decoding what was encoded -/

/-- A command goes through the decoder of CMD bytes unchanged, with each of its presence bits. -/
theorem decodeCommand_encodeByte {i : Instr} (h : i.isCommand = true) : decodeCommand (encodeByte i) = .ok i := by
  cases i with
  | encrypt inP keyP outP => revert inP keyP outP; decide
  | decrypt inP keyP outP => revert inP keyP outP; decide
  | _ => cases h

/-- A well-formed micro-op goes through the decoder of micro-op words unchanged, with each of its round indices. -/
theorem decodeUop_encodeByte {i : Instr} (wf : i.wellFormed = true) (h : i.isCommand = false) :
    decodeUop (encodeByte i) = .ok i := by
  cases i with
  | encrypt => cases h
  | decrypt => cases h
  | kexp k => clear h; revert k; decide
  | ark k => clear h; revert k; decide
  | _ => rfl

/-- The joint decoder undoes the encoder. -/
theorem decodeByte_encodeByte {i : Instr} (wf : i.wellFormed = true) : decodeByte (encodeByte i) = .ok i := by
  cases h : i.isCommand
  · exact decodeByte_of_decodeUop (decodeUop_encodeByte wf h)
  · exact decodeByte_of_decodeCommand (decodeCommand_encodeByte h)

/-! ## Encoding what was decoded -/

/-- The four fields that vary make up a command byte whose `RSV` is 000 (R103). -/
theorem commandByte_fields {v : Byte} (rsv : cmdRsv v = 0b000#3) :
    commandByte (cmdOp v) (cmdInP v) (cmdKeyP v) (cmdOutP v) = v := by
  revert v; decide

/-- The two fields make up a micro-op word (R110). -/
theorem uopWord_fields (w : Byte) : uopWord (uopCode w) (uopRnd w) = w := by
  unfold uopWord uopCode uopRnd
  exact BitVec.extractLsb'_append_extractLsb'_eq_extractLsb' (by rfl) |>.trans (BitVec.extractLsb'_eq_self)

/-- A byte that decodes to a command encodes it. -/
theorem encodeByte_of_decodeCommand {v : Byte} {i : Instr} (h : decodeCommand v = .ok i) :
    encodeByte i = v ∧ i.wellFormed = true := by
  unfold decodeCommand at h
  split_ifs at h with rsv enc dec
  · cases h; exact ⟨by rw [encodeByte, ← enc, commandByte_fields (not_not.mp rsv)], rfl⟩
  · cases h; exact ⟨by rw [encodeByte, ← dec, commandByte_fields (not_not.mp rsv)], rfl⟩

section
variable {w : Byte} {i : Instr}

/-- A micro-op without a round index is read only from a word whose `RND` is 0, so from its own. -/
theorem encodeByte_of_plainUop {j : Instr} (hj : encodeByte j = uopWord (uopCode w) 0#4) (h : plainUop w j = .ok i) :
    encodeByte i = w := by
  unfold plainUop at h
  split at h
  · rename_i rnd
    cases h
    rw [hj, ← rnd, uopWord_fields]
  · cases h

/-- A micro-op with a round index takes that of its word's `RND`. -/
theorem encodeByte_of_roundUop {j : BitVec 4 → Instr} (hj : ∀ k, encodeByte (j k) = uopWord (uopCode w) k)
    (h : roundUop w j = .ok i) : encodeByte i = w := by
  unfold roundUop at h
  split at h
  · cases h
    rw [hj, uopWord_fields]
  · cases h

/-- A word that decodes to a micro-op encodes it. -/
theorem encodeByte_of_decodeUop (h : decodeUop w = .ok i) : encodeByte i = w := by
  have plain {c : BitVec 4} {j : Instr} (hj : encodeByte j = uopWord c 0#4) (code : uopCode w = c) :=
    @encodeByte_of_plainUop w i j (code ▸ hj)
  have round {c : BitVec 4} {j : BitVec 4 → Instr} (hj : ∀ k, encodeByte (j k) = uopWord c k) (code : uopCode w = c) :=
    @encodeByte_of_roundUop w i j (code ▸ hj)
  unfold decodeUop at h
  obtain ⟨loads, h⟩ | ⟨-, h⟩ := ite_eq_iff.mp h
  · exact plain rfl loads h
  obtain ⟨kexp, h⟩ | ⟨-, h⟩ := ite_eq_iff.mp h
  · exact round (fun _ => rfl) kexp h
  obtain ⟨ark, h⟩ | ⟨-, h⟩ := ite_eq_iff.mp h
  · exact round (fun _ => rfl) ark h
  obtain ⟨sb, h⟩ | ⟨-, h⟩ := ite_eq_iff.mp h
  · exact plain rfl sb h
  obtain ⟨isb, h⟩ | ⟨-, h⟩ := ite_eq_iff.mp h
  · exact plain rfl isb h
  obtain ⟨sr, h⟩ | ⟨-, h⟩ := ite_eq_iff.mp h
  · exact plain rfl sr h
  obtain ⟨isr, h⟩ | ⟨-, h⟩ := ite_eq_iff.mp h
  · exact plain rfl isr h
  obtain ⟨mc, h⟩ | ⟨-, h⟩ := ite_eq_iff.mp h
  · exact plain rfl mc h
  obtain ⟨imc, h⟩ | ⟨-, h⟩ := ite_eq_iff.mp h
  · exact plain rfl imc h
  obtain ⟨store, h⟩ | ⟨-, h⟩ := ite_eq_iff.mp h
  · exact plain rfl store h
  cases h

/-- What a word decodes to is well formed. -/
theorem wellFormed_of_decodeUop (h : decodeUop w = .ok i) : i.wellFormed = true := by
  have verdict := decodeUop_verdict w
  rw [h] at verdict
  cases verdict with
  | decoded wf => exact wf

end

namespace Machine

/-! ## The obligations -/

/-- Settles O2: each kind goes through its own decoder, and the joint decoder reads it as that one does. -/
theorem decodeOfEncodeIsIdentity : Obligations.DecodeOfEncodeIsIdentity := by
  unfold Obligations.DecodeOfEncodeIsIdentity
  intro i wf rest
  refine ⟨?_, decodeCommand_encodeByte, decodeUop_encodeByte wf⟩
  rw [encode, List.singleton_append, decode, decodeByte_encodeByte wf]

/-- Settles O3: the fields a byte was read by make up the byte again. -/
theorem encodeOfDecodeIsIdentity : Obligations.EncodeOfDecodeIsIdentity := by
  unfold Obligations.EncodeOfDecodeIsIdentity
  intro b i h
  obtain command | uop := decodeByte_eq_ok h
  · exact encodeByte_of_decodeCommand command
  · exact ⟨encodeByte_of_decodeUop uop, wellFormed_of_decodeUop uop⟩

/-- Settles O1: the decoder run on each of the fixed words. -/
theorem specWordsDecode : Obligations.SpecWordsDecode := by
  unfold Obligations.SpecWordsDecode
  decide

/-- Settles O5: the checks of R107 at each of the 256 bytes. -/
theorem commandByteClassTable : Obligations.CommandByteClassTable := by
  unfold Obligations.CommandByteClassTable
  refine ⟨?runEnc, ?runDec, ?absentEnc, ?absentDec, ?illegal, ?count⟩
  case runEnc => decide
  case runDec => decide
  case absentEnc => decide
  case absentDec => decide
  case illegal => decide
  case count => decide +kernel

end Machine

end Sys2Proof

/-! PROOFS. The operation in flight. Settles that a micro-program computes Cipher or InvCipher of the captured operands from its first
word (43_cipher.md R222), that every operation in flight completes (44_commands.md R235), and that whatever turn comes in between
it stays on its way to the right result. `datapathResult` says what the rest of a micro-program makes of `HID.S` and `HID.W`;
`microSteps_remaining` ties it to the machine: left to run, the core completes with that block. So an operation is on its way to
the right result exactly when `datapathResult` is that result, and a step keeps the one and the other. -/

namespace Sys2Proof.Machine

/-! ## The micro-programs as lists of micro-ops (R220, R221) -/

/-- KEXP of a round index. -/
def kexpOf (k : RoundIndex) : Instr := .kexp (BitVec.ofNat 4 k.val)

/-- ARK of a round index. -/
def arkOf (k : RoundIndex) : Instr := .ark (BitVec.ofNat 4 k.val)

/-- The micro-ops of one round 1 to 9 of encryption. -/
def encRoundUops (r : RoundIndex) : List Instr := [.sb, .sr, .mc, arkOf r]

/-- The micro-ops of one round 9 to 1 of decryption. -/
def decRoundUops (r : RoundIndex) : List Instr := [.isr, .isb, arkOf r, .imc]

/-- LOADS and the eleven KEXP micro-ops. -/
def prologueUops : List Instr := .loads :: allRounds.map kexpOf

/-- The micro-ops of an operation, in the order they run. -/
def uops : OpSel → List Instr
  | .enc => prologueUops ++ arkOf 0 :: middleRounds.flatMap encRoundUops ++ [.sb, .sr, arkOf 10, .store]
  | .dec => prologueUops ++ arkOf 10 :: middleRounds.reverse.flatMap decRoundUops ++ [.isr, .isb, arkOf 0, .store]

/-- The words of a micro-program are those of its micro-ops. -/
theorem microProgram_eq_encode (op : OpSel) : microProgram op = (uops op).map encodeByte := by
  cases op <;> decide

theorem uops_length (op : OpSel) : (uops op).length = 53 := by cases op <;> rfl

/-- A micro-program holds well-formed micro-ops. -/
theorem wellFormed_uop_of_mem_uops {op : OpSel} {i : Instr} (h : i ∈ uops op) :
    i.isCommand = false ∧ i.wellFormed = true := by
  have all : ∀ op, ∀ i ∈ uops op, i.isCommand = false ∧ i.wellFormed = true := by
    intro op; cases op <;> decide
  exact all op i h

/-- The micro-op at a place of a micro-program. -/
def uopOf (op : OpSel) (n : UopIndex) : Instr := (uops op)[n.val]'(by rw [uops_length]; exact n.isLt)

theorem uopOf_mem (op : OpSel) (n : UopIndex) : uopOf op n ∈ uops op := List.getElem_mem _

/-- The word at a place is the word of the micro-op there. -/
theorem uopAt_eq_encodeByte (op : OpSel) (n : UopIndex) : uopAt op n = encodeByte (uopOf op n) := by
  simp [uopAt, uopOf, microProgram_eq_encode]

theorem decodeUop_uopAt (op : OpSel) (n : UopIndex) : decodeUop (uopAt op n) = .ok (uopOf op n) := by
  obtain ⟨uop, wf⟩ := wellFormed_uop_of_mem_uops (uopOf_mem op n)
  rw [uopAt_eq_encodeByte, decodeUop_encodeByte wf uop]

/-- STORE is the last micro-op and stands nowhere else. -/
theorem uopOf_eq_store_iff (op : OpSel) (n : UopIndex) : uopOf op n = .store ↔ n.val = 52 := by
  rw [← decodeUop_uopAt_eq_store_iff op n, decodeUop_uopAt, Except.ok.injEq]

/-! ## What a micro-op makes of the datapath -/

/-- A field that holds a round index names it. -/
@[simp] theorem roundOperand_ofNat (k : RoundIndex) : roundOperand (BitVec.ofNat 4 k.val) = some k := by
  revert k; decide

/-- The registers `HID.S` and `HID.W` (10_state.md R44). -/
abbrev Datapath := Mat × Schedule

/-- What a micro-op makes of the datapath, with the captured operands `sin` and `skey` (R210 to R218). STORE only reads it. -/
def onDatapath (sin skey : Block) (d : Datapath) : Instr → Datapath
  | .loads => (load sin, d.2)
  | .kexp k => (d.1, ((roundOperand k).map fun r => expandInto r skey d.2).getD d.2)
  | .ark k => (((roundOperand k).map fun r => addRoundKey d.1 (roundKey d.2 r)).getD d.1, d.2)
  | .sb => (subBytes d.1, d.2)
  | .isb => (invSubBytes d.1, d.2)
  | .sr => (shiftRows d.1, d.2)
  | .isr => (invShiftRows d.1, d.2)
  | .mc => (mixColumns d.1, d.2)
  | .imc => (invMixColumns d.1, d.2)
  | .store => d
  | .encrypt _ _ _ => d
  | .decrypt _ _ _ => d

/-- The datapath of a state. -/
def datapath (s : State) : Datapath := (s.hidS, s.hidW)

/-- The state with another datapath. -/
def withDatapath (d : Datapath) (s : State) : State := { s with hidS := d.1, hidW := d.2 }

/-- A micro-op but STORE changes the datapath and nothing else. -/
theorem exec_eq_withDatapath {i : Instr} (uop : i.isCommand = false) (wf : i.wellFormed = true) (notStore : i ≠ .store)
    (s : State) : exec i s = .next (withDatapath (onDatapath s.hidSin s.hidSkey (datapath s) i) s) := by
  cases i with
  | encrypt => cases uop
  | decrypt => cases uop
  | store => exact absurd rfl notStore
  | kexp k =>
    have hk : k.toNat < 11 := Nat.lt_succ_of_le (of_decide_eq_true wf)
    simp only [exec_kexp hk, onDatapath, roundOperand_some hk]; rfl
  | ark k =>
    have hk : k.toNat < 11 := Nat.lt_succ_of_le (of_decide_eq_true wf)
    simp only [exec_ark hk, onDatapath, roundOperand_some hk]; rfl
  | _ => rfl

/-! ## The core's micro-op turn while BUSY = 1 -/

/-- The sequencer runs the micro-op at UPC. -/
theorem microStep_busy {s : State} (busy : s.busy = true) :
    microStep s = exec (uopOf s.hidOpsel s.hidUpc) (advance s) := by
  simp [microStep, busy, runUopWord, fetchUop, decodeUop_uopAt]

/-- The state after a micro-op but the last. -/
def afterUop (s : State) : State :=
  withDatapath (onDatapath s.hidSin s.hidSkey (datapath s) (uopOf s.hidOpsel s.hidUpc)) (advance s)

@[simp] theorem afterUop_hidUpc (s : State) : (afterUop s).hidUpc = s.hidUpc + 1 := rfl

/-- Before the last place of its micro-program the core runs a micro-op on the datapath. -/
theorem microStep_beforeStore {s : State} (busy : s.busy = true) (h : s.hidUpc.val < 52) :
    microStep s = .next (afterUop s) := by
  obtain ⟨uop, wf⟩ := wellFormed_uop_of_mem_uops (uopOf_mem s.hidOpsel s.hidUpc)
  have notStore : uopOf s.hidOpsel s.hidUpc ≠ .store := fun e => h.ne ((uopOf_eq_store_iff _ _).mp e)
  rw [microStep_busy busy, exec_eq_withDatapath uop wf notStore]
  rfl

/-- At the last place it completes. -/
theorem microStep_atStore {s : State} (busy : s.busy = true) (h : s.hidUpc.val = 52) :
    microStep s = .next (unspecifyHidden (setDone { advance s with dout := store s.hidS })) := by
  rw [microStep_busy busy, (uopOf_eq_store_iff _ _).mpr h]
  exact congrArg Host.Outcome.next (completeWith_busy (s := advance s) _ busy)

/-! ## Running the rest of a micro-program -/

/-- The block the rest of the micro-program of an operation in flight ends with. -/
def datapathResult (s : State) : Block :=
  store (((uops s.hidOpsel).drop s.hidUpc.val).foldl (onDatapath s.hidSin s.hidSkey) (datapath s)).1

/-- A micro-op but the last leaves the result the rest of the micro-program ends with. -/
theorem datapathResult_afterUop {s : State} (h : s.hidUpc.val < 52) : datapathResult (afterUop s) = datapathResult s := by
  have next : (s.hidUpc + 1).val = s.hidUpc.val + 1 := Fin.val_add_one_of_lt (Fin.lt_def.mpr h)
  have rest : (uops s.hidOpsel).drop s.hidUpc.val = uopOf s.hidOpsel s.hidUpc :: (uops s.hidOpsel).drop (s.hidUpc.val + 1) :=
    List.drop_eq_getElem_cons _
  rw [datapathResult, datapathResult, rest, List.foldl_cons, ← next]
  rfl

/-- At STORE the result is in `HID.S`. -/
theorem datapathResult_atStore {s : State} (h : s.hidUpc.val = 52) : datapathResult s = store s.hidS := by
  rw [datapathResult, h]
  cases s.hidOpsel <;> rfl

/-- `t` is `s` with the operation in flight completed: DOUT holds `result`, and nothing else a host can see has changed. -/
structure CompletedFrom (s t : State) (result : Block) : Prop where
  dout : t.dout = result
  busy : t.busy = false
  done : t.done = true
  err : t.err = s.err
  errCause : t.errCause = s.errCause
  din : t.din = s.din
  key : t.key = s.key
  returned : t.returned = s.returned

/-- Left to run, the core completes with the block of `datapathResult`. -/
theorem microSteps_remaining {s : State} (busy : s.busy = true) :
    ∃ t, microSteps (remaining s) s = .next t ∧ CompletedFrom s t (datapathResult s) := by
  obtain ⟨left, hl⟩ : ∃ left, s.hidUpc.val + left = 52 := ⟨52 - s.hidUpc.val, by omega⟩
  have count : remaining s = left + 1 := by unfold remaining; omega
  rw [count]
  clear count
  induction left generalizing s with
  | zero =>
    refine ⟨_, by rw [microSteps, microStep_atStore busy hl]; rfl, ?_⟩
    rw [datapathResult_atStore hl]
    constructor <;> simp
  | succ left ih =>
    have h : s.hidUpc.val < 52 := by omega
    have next : (s.hidUpc + 1).val = s.hidUpc.val + 1 := Fin.val_add_one_of_lt (Fin.lt_def.mpr h)
    obtain ⟨t, run, completed⟩ := ih (s := afterUop s) busy (by rw [afterUop_hidUpc, next]; omega)
    refine ⟨t, by rw [microSteps, microStep_beforeStore busy h]; exact run, ?_⟩
    rw [← datapathResult_afterUop h]
    exact { completed with }

/-- An operation is on its way to the right result exactly when the rest of its micro-program ends with it. -/
theorem inFlightRight_iff (s : State) : InFlightRight s ↔ (s.busy = true → datapathResult s = operationResult s) := by
  refine forall_congr' fun busy => ?_
  obtain ⟨t, run, completed⟩ := microSteps_remaining busy
  constructor
  · rintro ⟨t', run', -, -, dout⟩
    rw [run] at run'
    cases run'
    exact completed.dout.symm.trans dout
  · exact fun right => ⟨t, run, completed.busy, completed.done, completed.dout.trans right⟩

/-! ## A whole micro-program computes the block function -/

section
variable (sin skey : Block)

/-- The KEXP micro-ops expand the key. -/
theorem foldl_kexpOf (rounds : List RoundIndex) (d : Datapath) :
    (rounds.map kexpOf).foldl (onDatapath sin skey) d =
      (d.1, rounds.foldl (fun w k => expandInto k skey w) d.2) := by
  induction rounds generalizing d with
  | nil => rfl
  | cons k rounds ih => simp [ih, kexpOf, onDatapath]

/-- Expanding all rounds gives the same round keys whatever the schedule held before: each is written before it is read. -/
theorem foldl_allRounds_eq_keyExpansion (w : Schedule) :
    allRounds.foldl (fun w k => expandInto k skey w) w = keyExpansion skey := by
  refine vector_ext_get fun k => ?_
  induction k using Fin.induction with
  | zero =>
    rw [keyExpansion_get_zero, allRounds, List.foldl_cons, foldl_expandInto_other _ (by decide), expandInto_get_zero]
  | succ j ih =>
    obtain ⟨before, after, split, self, previous⟩ := allRounds_split j
    rw [keyExpansion_get_succ, ← ih]
    simp only [split, List.foldl_append, List.foldl_cons]
    rw [foldl_expandInto_other _ self, foldl_expandInto_other _ previous, expandInto_get_succ,
      expandInto_other _ _ _ _ (Fin.castSucc_lt_succ).ne]

/-- The prologue loads the block and expands the key. -/
theorem foldl_prologueUops (d : Datapath) :
    prologueUops.foldl (onDatapath sin skey) d = (load sin, keyExpansion skey) := by
  rw [prologueUops, List.foldl_cons, foldl_kexpOf, foldl_allRounds_eq_keyExpansion]
  rfl

/-- Micro-ops that run one round each run a list of rounds. -/
theorem foldl_roundUops {body : RoundIndex → List Instr} {round : Mat → Mat → Mat} {w : Schedule}
    (runs : ∀ m r, (body r).foldl (onDatapath sin skey) (m, w) = (round m (roundKey w r), w))
    (rounds : List RoundIndex) (m : Mat) :
    (rounds.flatMap body).foldl (onDatapath sin skey) (m, w) =
      (rounds.foldl (fun m r => round m (roundKey w r)) m, w) := by
  induction rounds generalizing m with
  | nil => rfl
  | cons r rounds ih => rw [List.flatMap_cons, List.foldl_append, runs, ih, List.foldl_cons]

theorem onDatapath_arkOf (d : Datapath) (r : RoundIndex) :
    onDatapath sin skey d (arkOf r) = (addRoundKey d.1 (roundKey d.2 r), d.2) := by simp [arkOf, onDatapath]

theorem foldl_encRoundUops (w : Schedule) (m : Mat) (r : RoundIndex) :
    (encRoundUops r).foldl (onDatapath sin skey) (m, w) = (encRound m (roundKey w r), w) :=
  onDatapath_arkOf sin skey _ r

theorem foldl_decRoundUops (w : Schedule) (m : Mat) (r : RoundIndex) :
    (decRoundUops r).foldl (onDatapath sin skey) (m, w) = (decRound m (roundKey w r), w) := by
  simp only [decRoundUops, List.foldl_cons, onDatapath_arkOf]
  rfl

/-- The encrypt micro-program ends with Cipher of the captured operands, whatever the datapath held. -/
theorem foldl_uops_enc (d : Datapath) : store ((uops .enc).foldl (onDatapath sin skey) d).1 = cipher sin skey := by
  simp only [uops, List.foldl_append, foldl_prologueUops, List.foldl_cons, List.foldl_nil, onDatapath_arkOf,
    foldl_roundUops sin skey (foldl_encRoundUops sin skey _)]
  rfl

/-- The decrypt micro-program ends with InvCipher of the captured operands, whatever the datapath held. -/
theorem foldl_uops_dec (d : Datapath) : store ((uops .dec).foldl (onDatapath sin skey) d).1 = invCipher sin skey := by
  simp only [uops, List.foldl_append, foldl_prologueUops, List.foldl_cons, List.foldl_nil, onDatapath_arkOf,
    foldl_roundUops sin skey (foldl_decRoundUops sin skey _)]
  rfl

end

/-- At its first micro-op an operation is on its way to the right result. -/
theorem datapathResult_first {s : State} (first : s.hidUpc = 0) : datapathResult s = operationResult s := by
  rw [datapathResult, operationResult, first]
  cases s.hidOpsel with
  | enc => exact foldl_uops_enc _ _ _
  | dec => exact foldl_uops_dec _ _ _

/-! ## Steps that keep an operation on its way -/

/-- A step that does not end the operation in flight and leaves what it depends on keeps it on its way. -/
theorem InFlightRight.congr {s t : State} (h : InFlightRight s) (busy : t.busy = s.busy)
    (captured : t.hidOpsel = s.hidOpsel ∧ t.hidSin = s.hidSin ∧ t.hidSkey = s.hidSkey)
    (sequencer : t.hidUpc = s.hidUpc ∧ t.hidS = s.hidS ∧ t.hidW = s.hidW) : InFlightRight t := by
  obtain ⟨opsel, sin, skey⟩ := captured
  obtain ⟨upc, m, w⟩ := sequencer
  rw [inFlightRight_iff] at h ⊢
  simpa only [datapathResult, operationResult, datapath, busy, opsel, sin, skey, upc, m, w] using h

/-- An idle core has no operation in flight that could go wrong. -/
theorem InFlightRight.of_idle {s : State} (idle : s.busy = false) : InFlightRight s := fun busy => by simp [idle] at busy

/-- An operation that starts is on its way to the right result. -/
theorem InFlightRight.start (op : OpSel) (s : State) : InFlightRight (start op s) :=
  (inFlightRight_iff _).mpr fun _ => datapathResult_first rfl

/-- The core's micro-op turn keeps the operation on its way. -/
theorem InFlightRight.microStep {s t : State} (h : InFlightRight s) (step : microStep s = .next t) : InFlightRight t := by
  cases busy : s.busy with
  | false => simp only [Machine.microStep, busy] at step; cases step; exact h
  | true =>
    obtain last | before : s.hidUpc.val = 52 ∨ s.hidUpc.val < 52 := by omega
    · rw [microStep_atStore busy last] at step
      cases step
      exact .of_idle rfl
    · rw [microStep_beforeStore busy before] at step
      cases step
      rw [inFlightRight_iff] at h ⊢
      exact fun _ => (datapathResult_afterUop before).trans (h busy)

/-! ## The obligations -/

/-- Settles O46: a host's read or write leaves what the operation depends on, a command is ignored while BUSY = 1 and otherwise
starts an operation at its first micro-op, a micro-op leaves the result of the rest, and completion and reset end the
operation. -/
theorem stepKeepsInFlightResultRight : Obligations.StepKeepsInFlightResultRight := by
  unfold Obligations.StepKeepsInFlightResultRight
  intro s t h hstep
  have taken : InFlightRight (turnTaken s) := h.congr rfl ⟨rfl, rfl, rfl⟩ ⟨rfl, rfl, rfl⟩
  obtain ⟨off, -, rfl⟩ | ⟨off, v, -, -, rfl⟩ | ⟨v, -, hw⟩ | ⟨-, hm⟩ | ⟨-, rfl⟩ | ⟨-, rfl⟩ := step_cases hstep
  · exact taken.congr rfl ⟨rfl, rfl, rfl⟩ ⟨rfl, rfl, rfl⟩
  · exact taken.congr (by simp) (by simp) (by simp)
  · obtain ⟨-, rfl⟩ | ⟨-, op, -, rfl⟩ | ⟨idle, -, c, -, rfl⟩ := writeCommand_inv hw
    · exact taken
    · exact .start op _
    · exact .of_idle idle
  · exact taken.microStep hm
  · obtain ⟨-, e⟩ | ⟨-, e⟩ := complete_cases (turnTaken s) <;> rw [e]
    · exact taken
    · exact .of_idle rfl
  · exact .of_idle rfl

/-- Settles O55: from the first micro-op 53 remain, and the block they end with is that of the block function. -/
theorem microProgramComputesCipher : Obligations.MicroProgramComputesCipher := by
  unfold Obligations.MicroProgramComputesCipher
  intro s busy first noTurn
  obtain ⟨t, run, completed⟩ := microSteps_remaining busy
  have count : remaining s = 53 := by rw [remaining, first]; rfl
  rw [datapathResult_first first] at completed
  obtain ⟨dout, notBusy, done, err, errCause, din, key, returned⟩ := completed
  refine ⟨t, run_of_microSteps noTurn (count ▸ run), fun enc => ?enc, fun dec => ?dec, notBusy, done, err, errCause, din,
    key, returned⟩
  case enc => rw [dout, operationResult, enc]
  case dec => rw [dout, operationResult, dec]

/-- Settles O56: the rest of a micro-program is at most all of it. -/
theorem operationCompletes : Obligations.OperationCompletes := by
  unfold Obligations.OperationCompletes
  intro s busy noTurn
  obtain ⟨t, run, completed⟩ := microSteps_remaining busy
  exact ⟨remaining s, t, Nat.sub_le _ _, run_of_microSteps noTurn run, completed.busy, completed.done⟩

end Sys2Proof.Machine

/-! PROOFS. The invariants of the status and of the error report (10_state.md R41, R42). What a step does to the STATUS bits is
`step_statusEffect`; `step_errorReport` says what it does to ERR and ERR_CAUSE together. -/

namespace Sys2Proof.Machine

/-! ## At most one STATUS bit (R41) -/

/-- With at most one bit set, STATUS reads one of four values. -/
theorem StatusOneHot.statusByte_mem {s : State} (h : StatusOneHot s) :
    statusByte s ∈ [0x00#8, 0x01#8, 0x02#8, 0x04#8] := by
  obtain ⟨notBusyDone, notBusyErr, notDoneErr⟩ := h
  have bits : ∀ busy done err : Bool, ¬ (busy = true ∧ done = true) → ¬ (busy = true ∧ err = true) →
      ¬ (done = true ∧ err = true) →
      0b00000#5 ++ BitVec.ofBool err ++ BitVec.ofBool done ++ BitVec.ofBool busy ∈ [0x00#8, 0x01#8, 0x02#8, 0x04#8] := by
    decide
  exact bits s.busy s.done s.err notBusyDone notBusyErr notDoneErr

/-- Every effect of a step on the STATUS bits leaves at most one of them set. -/
theorem StatusOneHot.of_statusEffect {s t : State} (h : StatusOneHot s) (effect : StatusEffect s t) : StatusOneHot t := by
  unfold StatusOneHot at h ⊢
  cases effect with
  | unchanged _ _ busy done err => rwa [busy, done, err]
  | ignored _ _ _ same => rw [same]; exact h
  | started _ _ _ _ _ _ done err => simp [done, err]
  | failed _ _ _ _ busy done => simp [busy, done]
  | completed _ inFlight busy done err =>
    obtain ⟨-, notBusyErr, -⟩ := h
    have noErr : s.err ≠ true := fun e => notBusyErr ⟨inFlight, e⟩
    simp [busy, err, noErr]
  | reset _ busy done err => simp [busy, done, err]

/-! ## ERR and ERR_CAUSE (R42) -/

/-- A step leaves ERR and ERR_CAUSE, clears them both, or sets both with one of the two codes. -/
theorem step_errorReport {s t : State} (h : step s = .next t) :
    (t.err = s.err ∧ t.errCause = s.errCause) ∨ (t.err = false ∧ t.errCause = causeNone) ∨
    (t.err = true ∧ (t.errCause = causeInvalidArgument ∨ t.errCause = causeIllegalCommand)) := by
  obtain ⟨off, -, rfl⟩ | ⟨off, v, -, -, rfl⟩ | ⟨v, -, hw⟩ | ⟨-, hm⟩ | ⟨-, rfl⟩ | ⟨-, rfl⟩ := step_cases h
  · exact .inl ⟨rfl, rfl⟩
  · exact .inl ⟨by simp, by simp⟩
  · obtain ⟨-, rfl⟩ | ⟨-, op, -, rfl⟩ | ⟨-, -, c, code, rfl⟩ := writeCommand_inv hw
    · exact .inl ⟨rfl, rfl⟩
    · exact .inr (.inl ⟨rfl, rfl⟩)
    · exact .inr (.inr ⟨rfl, code⟩)
  · obtain ⟨-, rfl⟩ | ⟨-, m, w, rfl⟩ | ⟨-, -, rfl⟩ := microStep_inv hm <;> exact .inl ⟨by simp, by simp⟩
  · obtain ⟨-, e⟩ | ⟨-, e⟩ := complete_cases (turnTaken s) <;> rw [e] <;> exact .inl ⟨by simp, by simp⟩
  · exact .inr (.inl ⟨rfl, rfl⟩)

/-! ## The obligations -/

/-- Settles O44: each of the six effects of a step keeps the invariant, which leaves four values of STATUS. -/
theorem stepKeepsStatusOneHot : Obligations.StepKeepsStatusOneHot := by
  unfold Obligations.StepKeepsStatusOneHot
  intro s t hs h
  have ht : StatusOneHot t := hs.of_statusEffect (step_statusEffect h)
  exact ⟨ht, ht.statusByte_mem⟩

/-- Settles O45: a step that changes the report leaves a legal one. -/
theorem stepKeepsErrorReportLegal : Obligations.StepKeepsErrorReportLegal := by
  unfold Obligations.StepKeepsErrorReportLegal ErrorReportLegal
  intro s t hs h
  obtain ⟨err, cause⟩ | ⟨err, cause⟩ | ⟨err, cause⟩ := step_errorReport h
  · rwa [err, cause]
  · exact ⟨fun _ => cause, by simp [err]⟩
  · exact ⟨by simp [err], fun _ => cause⟩

/-- Settles O47: after reset the three bits and ERR_CAUSE are zero, and with BUSY = 0 nothing is in flight. -/
theorem resetMeetsInvariants : Obligations.ResetMeetsInvariants := by
  unfold Obligations.ResetMeetsInvariants
  refine ⟨?oneHot, ?report, .of_idle rfl⟩
  case oneHot => simp [StatusOneHot, State.reset]
  case report => simp [ErrorReportLegal, State.reset]

end Sys2Proof.Machine

/-! PROOFS. What a step leaves unchanged. Settles which steps can change DOUT, DIN, KEY and the captured operands (10_state.md R33 to
R35, R43; 20_memory.md R84) and which can be refused (44_commands.md R240). Each rule goes through the cases of `step_cases`. -/

namespace Sys2Proof.Machine

/-! ## Frames of the kinds of turn -/

/-- A byte written to CMD leaves the three data registers. -/
theorem writeCommand_frame {v : Byte} {s t : State} (h : writeCommand v s = .next t) :
    t.din = s.din ∧ t.key = s.key ∧ t.dout = s.dout := by
  obtain ⟨-, rfl⟩ | ⟨-, op, -, rfl⟩ | ⟨-, -, c, -, rfl⟩ := writeCommand_inv h <;> exact ⟨rfl, rfl, rfl⟩

/-- A micro-op turn leaves DIN and KEY. -/
theorem microStep_frame {s t : State} (h : microStep s = .next t) : t.din = s.din ∧ t.key = s.key := by
  obtain ⟨-, rfl⟩ | ⟨-, m, w, rfl⟩ | ⟨-, -, rfl⟩ := microStep_inv h <;> exact ⟨by simp, by simp⟩

/-- A completion turn leaves DIN and KEY. -/
theorem complete_frame (s : State) : (complete s).din = s.din ∧ (complete s).key = s.key := by
  obtain ⟨-, e⟩ | ⟨-, e⟩ := complete_cases s <;> rw [e] <;> exact ⟨by simp, by simp⟩

/-! ## Bytes of DIN and KEY -/

/-- A number below 0x40 as an offset. -/
theorem eq_ofNat_iff (off : BitVec 6) {n : Nat} (h : n < 0x40) : off = BitVec.ofNat 6 n ↔ off.toNat = n := by
  rw [← BitVec.toNat_inj, BitVec.toNat_ofNat, Nat.mod_eq_of_lt h]

section
variable (off : BitVec 6) (v : Byte) (s : State) (i : Fin 16)

/-- A byte of DIN after a host write is the byte written to its offset, or else the byte before. -/
theorem writeOffset_din_get :
    (writeOffset off v s).din.get i = if off = BitVec.ofNat 6 i.val then v else s.din.get i := by
  simp only [eq_ofNat_iff off (show i.val < 0x40 by omega)]
  obtain low | ⟨aboveDin, inKey⟩ | high :
      off.toNat < 0x10 ∨ (0x10 ≤ off.toNat ∧ off.toNat < 0x20) ∨ 0x20 ≤ off.toNat := by omega
  · rw [writeOffset_din_range off v s low]
    simp only [vector_get_set]
  · rw [writeOffset_key_range off v s aboveDin inKey, if_neg (by omega)]
  · rw [writeOffset_ignored off v s high, if_neg (by omega)]

/-- A byte of KEY after a host write is the byte written to its offset, or else the byte before. -/
theorem writeOffset_key_get :
    (writeOffset off v s).key.get i = if off = BitVec.ofNat 6 (0x10 + i.val) then v else s.key.get i := by
  simp only [eq_ofNat_iff off (show 0x10 + i.val < 0x40 by omega)]
  obtain low | ⟨aboveDin, inKey⟩ | high :
      off.toNat < 0x10 ∨ (0x10 ≤ off.toNat ∧ off.toNat < 0x20) ∨ 0x20 ≤ off.toNat := by omega
  · rw [writeOffset_din_range off v s low, if_neg (by omega)]
  · rw [writeOffset_key_range off v s aboveDin inKey]
    have place : off.toNat - 0x10 = i.val ↔ off.toNat = 0x10 + i.val := by omega
    simp only [vector_get_set, place]
  · rw [writeOffset_ignored off v s high, if_neg (by omega)]

end

/-- A step but reset is a host write outside CMD, or it leaves DIN and KEY and no byte is written outside CMD. -/
theorem step_din_key {s t : State} (h : step s = .next t) (noReset : nextTurn s ≠ .reset) :
    (∃ off v, (nextTurn s).transfer? = some (.write off v) ∧ t = writeOffset off v (turnTaken s)) ∨
    ((∀ off, off ≠ cmdOffset → (nextTurn s).writeAt? off = none) ∧ t.din = s.din ∧ t.key = s.key) := by
  obtain ⟨_, hx, rfl⟩ | ⟨off, v, hx, -, rfl⟩ | ⟨v, hx, hw⟩ | ⟨hn, hm⟩ | ⟨hn, rfl⟩ | ⟨hn, -⟩ := step_cases h
  · exact .inr ⟨fun off _ => Turn.writeAt?_of_read hx off, rfl, rfl⟩
  · exact .inl ⟨off, v, hx, rfl⟩
  · obtain ⟨din, key, -⟩ := writeCommand_frame hw
    exact .inr ⟨fun off other => (Turn.writeAt?_of_write hx off).trans (if_neg other.symm), din, key⟩
  · exact .inr ⟨fun off _ => Turn.writeAt?_of_noTransfer (by rw [hn]; rfl) off, microStep_frame (s := turnTaken s) hm⟩
  · exact .inr ⟨fun off _ => Turn.writeAt?_of_noTransfer (by rw [hn]; rfl) off, complete_frame (turnTaken s)⟩
  · exact absurd hn noReset

/-! ## The obligations -/

/-- Settles O51: a host's turn leaves DOUT, and so does a turn of the core that does not complete. -/
theorem doutChangesOnlyByCompletion : Obligations.DoutChangesOnlyByCompletion := by
  unfold Obligations.DoutChangesOnlyByCompletion
  intro s t h changed
  obtain ⟨off, -, rfl⟩ | ⟨off, v, -, -, rfl⟩ | ⟨v, -, hw⟩ | ⟨hn, hm⟩ | ⟨hn, rfl⟩ | ⟨hn, -⟩ := step_cases h
  · exact absurd rfl changed
  · exact absurd (by simp) changed
  · obtain ⟨-, -, dout⟩ := writeCommand_frame hw
    exact absurd dout changed
  · obtain ⟨-, rfl⟩ | ⟨-, m, w, rfl⟩ | ⟨busy, store, rfl⟩ := microStep_inv hm
    · exact absurd rfl changed
    · exact absurd rfl changed
    · exact .inl ⟨busy, rfl, rfl, .inr ⟨hn, store⟩⟩
  · obtain ⟨-, e⟩ | ⟨busy, e⟩ := complete_cases (turnTaken s)
    · exact absurd (congrArg State.dout e) changed
    · exact .inl ⟨busy, by rw [e]; rfl, by rw [e]; rfl, .inl hn⟩
  · exact .inr hn

/-- Settles O52: a host write outside CMD stores at its offset, and no other step brings a byte there. -/
theorem dinAndKeyChangeOnlyByHostWrite : Obligations.DinAndKeyChangeOnlyByHostWrite := by
  unfold Obligations.DinAndKeyChangeOnlyByHostWrite
  intro s t h noReset i
  obtain ⟨off, v, hx, rfl⟩ | ⟨none, din, key⟩ := step_din_key h noReset
  · rw [Turn.writeAt?_of_write hx, Turn.writeAt?_of_write hx, writeOffset_din_get, writeOffset_key_get]
    constructor <;> split <;> rfl
  · have notCmd : BitVec.ofNat 6 i.val ≠ cmdOffset ∧ BitVec.ofNat 6 (0x10 + i.val) ≠ cmdOffset := by
      revert i; decide
    rw [none _ notCmd.1, none _ notCmd.2, din, key]
    exact ⟨rfl, rfl⟩

/-- Settles O53: only an accepted command captures operands, which needs BUSY = 0, and completion and reset, which make them
unspecified, lower BUSY. -/
theorem capturedOperandsStayWhileBusy : Obligations.CapturedOperandsStayWhileBusy := by
  unfold Obligations.CapturedOperandsStayWhileBusy
  intro s t h before after
  obtain ⟨off, -, rfl⟩ | ⟨off, v, -, -, rfl⟩ | ⟨v, -, hw⟩ | ⟨-, hm⟩ | ⟨-, rfl⟩ | ⟨-, rfl⟩ := step_cases h
  · exact ⟨rfl, rfl, rfl⟩
  · simp
  · obtain ⟨-, rfl⟩ | ⟨idle, -⟩ | ⟨idle, -⟩ := writeCommand_inv hw
    · exact ⟨rfl, rfl, rfl⟩
    · simp [before] at idle
    · simp [before] at idle
  · obtain ⟨-, rfl⟩ | ⟨-, m, w, rfl⟩ | ⟨-, -, rfl⟩ := microStep_inv hm
    · exact ⟨rfl, rfl, rfl⟩
    · exact ⟨rfl, rfl, rfl⟩
    · cases after
  · obtain ⟨idle, -⟩ | ⟨-, e⟩ := complete_cases (turnTaken s)
    · simp [before] at idle
    · rw [e] at after; cases after
  · cases after

/-- Settles O54: DONE falls only by a byte written to CMD or by reset (R39), and DOUT changes only while BUSY = 1 or by reset
(R35). -/
theorem completedResultStaysReadable : Obligations.CompletedResultStaysReadable := by
  unfold Obligations.CompletedResultStaysReadable
  intro s t h done idle noCmd noReset
  obtain ⟨-, falls, -, -⟩ := doneChangesOnlyByCompletionOrAcceptance s t h
  refine ⟨by_contra fun fell => ?_, by_contra fun changed => ?_⟩
  · obtain ⟨-, v, cmd⟩ | reset := falls done (Bool.eq_false_of_not_eq_true fell)
    · simp [noCmd] at cmd
    · exact noReset reset
  · obtain ⟨busy, -⟩ | reset := doutChangesOnlyByCompletion s t h changed
    · simp [idle] at busy
    · exact noReset reset

/-- Settles O43: every other turn answers a next state. -/
theorem stepRefusesOnlyForeignAccesses : Obligations.StepRefusesOnlyForeignAccesses := by
  unfold Obligations.StepRefusesOnlyForeignAccesses
  intro s r h
  rw [step_eq_takeTurn] at h
  have byTransfer {x : Transfer} {u : State} (hr : runTransfer x u = .refused r) : False := by
    obtain ⟨t, e⟩ := runTransfer_next x u
    rw [e] at hr; cases hr
  cases hn : nextTurn s with
  | transfer x => rw [hn] at h; exact (byTransfer h).elim
  | access a =>
    rw [hn] at h
    obtain ⟨x, -, e⟩ | ⟨foreign, -⟩ := takeTurn_access a (turnTaken s)
    · exact (byTransfer (e ▸ h)).elim
    · exact ⟨a, rfl, foreign⟩
  | microOp =>
    obtain ⟨t, e⟩ := microStep_next (turnTaken s)
    rw [hn, takeTurn, e] at h; cases h
  | completion => rw [hn] at h; cases h
  | reset => rw [hn] at h; cases h

end Sys2Proof.Machine

/-! PROOFS. What the host reaches and sees. Settles which platform accesses are transfers (20_memory.md R71 to R74), the values after
reset (70_reset_and_hazards.md R280), and that no turn of the host shows KEY or a hidden register (10_state.md R34). -/

namespace Sys2Proof.Machine

/-! ## The turn a step takes -/

/-- A step with a turn pending takes it. -/
theorem step_of_turns {s : State} {t : Turn} {rest : List Turn} (h : s.turns = t :: rest) :
    step s = takeTurn t { s with turns := rest } := by rw [step, h]

/-- The same of a state written with its pending turns. -/
theorem step_pending (s : State) (t : Turn) (rest : List Turn) :
    step { s with turns := t :: rest } = takeTurn t { s with turns := rest } := step_of_turns rfl

/-- With no turn pending a step is the core's micro-op turn. -/
theorem step_of_noTurn {s : State} (h : s.turns = []) : step s = microStep s := by rw [step, h]

/-! ## Platform accesses (R71, R72, R74) -/

/-- A turn that brings a transfer to the port does what the transfer does. -/
theorem takeTurn_of_transfer? {t : Turn} {x : Transfer} (h : t.transfer? = some x) (s : State) :
    takeTurn t s = runTransfer x s := by
  cases t with
  | transfer y => cases h; rfl
  | access a =>
    obtain ⟨y, hy, e⟩ | ⟨none, -⟩ := takeTurn_access a s
    · rw [hy] at h; cases h; exact e
    · rw [none] at h; cases h
  | microOp => cases h
  | completion => cases h
  | reset => cases h

/-- The step of an access that reaches the port is that of its transfer. -/
theorem step_access {a : Access} {x : Transfer} (h : (Turn.access a).transfer? = some x) (s : State) (rest : List Turn) :
    step { s with turns := .access a :: rest } = step { s with turns := .transfer x :: rest } := by
  rw [step_pending, step_pending, takeTurn_of_transfer? h, takeTurn]

/-- An address lies in the window when it is neither below nor above it. -/
theorem inWindow_eq_true_iff (addr : Nat) :
    inWindow addr = true ↔ ¬ (addr < Config.aesBase ∨ Config.aesBase + 0x3F < addr) := by
  simp [inWindow]

theorem inWindow_base_add (off : BitVec 6) : inWindow (Config.aesBase + off.toNat) = true := by
  rw [inWindow_eq_true_iff]; omega

/-- The offset of `AES_BASE + off` is `off`. -/
theorem offsetOf_base_add (off : BitVec 6) : offsetOf (Config.aesBase + off.toNat) = off := by
  simp [offsetOf]

section
variable {addr width : Nat} (t : BitVec 6 → Transfer) (s : State)

theorem selectAccess_width (h : width ≠ 1) : selectAccess addr width t s = .refused (.accessWidth width) := if_pos h

theorem selectAccess_outside (h : addr < Config.aesBase ∨ Config.aesBase + 0x3F < addr) :
    selectAccess addr 1 t s = .refused (.outsideWindow addr) := by
  have outside : ¬ inWindow addr = true := fun inside => (inWindow_eq_true_iff addr).mp inside h
  rw [selectAccess, if_neg (by simp), if_neg outside]

end

/-! ## The values after reset (R280) -/

/-- Every register a host can see is zero, and so is KEY. -/
structure Cleared (s : State) : Prop where
  din : s.din = Block.zero
  key : s.key = Block.zero
  dout : s.dout = Block.zero
  busy : s.busy = false
  done : s.done = false
  err : s.err = false
  errCause : s.errCause = 0x00#8

theorem cleared_reset : Cleared State.reset := by constructor <;> rfl

theorem cleared_resetStep (s : State) : Cleared (resetStep s) := by constructor <;> simp [causeNone]

/-- With zero registers every offset of the window reads 0x00. -/
theorem Cleared.readOffset_eq_zero {s : State} (h : Cleared s) (off : BitVec 6) : readOffset off s = 0x00#8 := by
  have status : statusByte s = 0x00#8 := by simp [statusByte, h.busy, h.done, h.err]
  unfold readOffset
  split_ifs <;> simp [h.din, h.dout, h.errCause, status]

/-! ## What a host can see after a turn -/

/-- What an accepted command byte does, by its class (44_commands.md R230). -/
def classEffect : Decoded → State → State
  | .run op => start op
  | .absent _ => raiseError causeInvalidArgument
  | .illegal => raiseError causeIllegalCommand

/-- A byte written to CMD acts by its class. -/
theorem writeCommand_eq (v : Byte) (s : State) :
    writeCommand v s = .next (accept (classEffect (commandClass v)) s) := by
  obtain ⟨busy, e⟩ | ⟨idle, op, c, e⟩ | ⟨idle, ⟨op, c⟩, e⟩ | ⟨idle, c, e⟩ := writeCommand_cases v s
  · rw [e, accept_busy _ busy]
  · rw [e, accept_idle _ idle, c]; rfl
  · rw [e, accept_idle _ idle, c]; rfl
  · rw [e, accept_idle _ idle, c]; rfl

section
variable {s t : State} (same : hostView s = hostView t)
include same

/-- A read returns a byte of what the host can see. -/
theorem readOffset_eq_of_hostView (off : BitVec 6) : readOffset off s = readOffset off t := by
  obtain ⟨din, dout, busy, done, err, errCause, -⟩ := HostView.mk.inj same
  simp only [readOffset, statusByte, din, dout, busy, done, err, errCause]

theorem hostView_returnByte (b : Byte) : hostView (returnByte b s) = hostView (returnByte b t) :=
  congrArg (fun view : HostView => { view with returned := b :: view.returned }) same

/-- A write outside CMD shows at most in DIN, as the byte written. -/
theorem hostView_writeOffset (off : BitVec 6) (v : Byte) :
    hostView (writeOffset off v s) = hostView (writeOffset off v t) := by
  obtain low | ⟨aboveDin, inKey⟩ | high :
      off.toNat < 0x10 ∨ (0x10 ≤ off.toNat ∧ off.toNat < 0x20) ∨ 0x20 ≤ off.toNat := by omega
  · rw [writeOffset_din_range off v s low, writeOffset_din_range off v t low]
    exact congrArg (fun view : HostView => { view with din := view.din.set off.toNat v }) same
  · rw [writeOffset_key_range off v s aboveDin inKey, writeOffset_key_range off v t aboveDin inKey]
    exact same
  · rwa [writeOffset_ignored off v s high, writeOffset_ignored off v t high]

/-- A command looks at BUSY and its own byte, and shows in the status and the error report only. -/
theorem hostView_accept_classEffect (c : Decoded) :
    hostView (accept (classEffect c) s) = hostView (accept (classEffect c) t) := by
  have busySame : s.busy = t.busy := congrArg HostView.busy same
  cases busy : s.busy with
  | true => rwa [accept_busy _ busy, accept_busy _ (busySame ▸ busy)]
  | false =>
    rw [accept_idle _ busy, accept_idle _ (busySame ▸ busy)]
    have cleared : hostView (clearReport s) = hostView (clearReport t) :=
      congrArg (fun view : HostView => { view with done := false, err := false, errCause := causeNone }) same
    cases c with
    | run op => exact congrArg (fun view : HostView => { view with busy := true }) cleared
    | absent op =>
      exact congrArg (fun view : HostView => { view with err := true, errCause := causeInvalidArgument }) cleared
    | illegal =>
      exact congrArg (fun view : HostView => { view with err := true, errCause := causeIllegalCommand }) cleared

/-- A reset leaves to see only what the host has read before. -/
theorem hostView_resetStep : hostView (resetStep s) = hostView (resetStep t) := by
  have returned : s.returned = t.returned := congrArg HostView.returned same
  simp [hostView, returned]

/-- A transfer keeps two states that look the same looking the same. -/
theorem hostView_runTransfer {x : Transfer} {s' : State} (h : runTransfer x s = .next s') :
    ∃ t', runTransfer x t = .next t' ∧ hostView s' = hostView t' := by
  obtain ⟨off, rfl, rfl⟩ | ⟨off, v, rfl, notCmd, rfl⟩ | ⟨v, rfl, hw⟩ := runTransfer_cases h
  · refine ⟨_, rfl, ?_⟩
    rw [readOffset_eq_of_hostView same]
    exact hostView_returnByte same _
  · exact ⟨_, if_neg notCmd, hostView_writeOffset same off v⟩
  · rw [writeCommand_eq] at hw
    cases hw
    exact ⟨_, writeCommand_eq v t, hostView_accept_classEffect same _⟩

end

/-! ## The obligations -/

/-- Settles O12: such an access brings the transfer at its offset to the port. -/
theorem windowAccessIsTransfer : Obligations.WindowAccessIsTransfer := by
  unfold Obligations.WindowAccessIsTransfer
  intro s rest off v
  refine ⟨step_access ?read s rest, step_access ?write s rest⟩
  case read => simp [Turn.transfer?, inWindow_base_add, offsetOf_base_add]
  case write => simp [Turn.transfer?, inWindow_base_add, offsetOf_base_add]

/-- Settles O13: the two refusals of `selectAccess`, which both kinds of access go through. -/
theorem otherAccessesRefused : Obligations.OtherAccessesRefused := by
  unfold Obligations.OtherAccessesRefused
  intro s rest addr width v
  simp only [step_pending, takeTurn, platformAccess]
  exact ⟨fun h => ⟨selectAccess_width _ _ h, selectAccess_width _ _ h⟩,
    fun h => ⟨selectAccess_outside _ _ h, selectAccess_outside _ _ h⟩⟩

/-- Settles O8: the registers of the state after reset are zero. -/
theorem resetStateIsZero : Obligations.ResetStateIsZero := by
  unfold Obligations.ResetStateIsZero
  exact ⟨Block.zero_get, Block.zero_get, Block.zero_get, rfl, rfl, rfl, rfl, cleared_reset.readOffset_eq_zero⟩

/-- Settles O9: the reset step clears the registers of any state. -/
theorem resetStepLeavesResetValues : Obligations.ResetStepLeavesResetValues := by
  unfold Obligations.ResetStepLeavesResetValues
  intro s rest h
  have cleared := cleared_resetStep { s with turns := rest }
  refine ⟨_, step_of_turns h, Block.zero_get, Block.zero_get, Block.zero_get, cleared.busy, cleared.done, cleared.err,
    cleared.errCause, cleared.readOffset_eq_zero, rfl, rfl⟩

/-- Settles O14: a turn that is not the core's own brings a transfer, is refused, or is reset, and each of these goes by what
the host can see. -/
theorem hostTurnsHideKeyAndHiddenState : Obligations.HostTurnsHideKeyAndHiddenState := by
  unfold Obligations.HostTurnsHideKeyAndHiddenState
  intro s t turn same notMicroOp notCompletion s' h
  have byTransfer {x : Transfer} (hx : turn.transfer? = some x) :
      ∃ t', takeTurn turn t = .next t' ∧ hostView s' = hostView t' := by
    rw [takeTurn_of_transfer? hx] at h ⊢
    exact hostView_runTransfer same h
  cases turn with
  | transfer x => exact byTransfer rfl
  | access a =>
    obtain ⟨x, hx, -⟩ | ⟨-, r, refused⟩ := takeTurn_access a s
    · exact byTransfer hx
    · rw [refused] at h; cases h
  | microOp => exact absurd rfl notMicroOp
  | completion => exact absurd rfl notCompletion
  | reset => cases h; exact ⟨_, rfl, hostView_resetStep same⟩

end Sys2Proof.Machine

/-! PROOFS. The field and the tables. Settles that the products are linear (41_transforms.md R151, R152), that the S-box and the round
constants are what their generators give (40_tables.md R132, R134), and the worked example of FIPS-197 (43_cipher.md R205, R206). -/

namespace Sys2Proof.Machine

/-! ## Multiplication distributes over XOR (R152) -/

/-- Each bit of the first factor selects the same doubling of both summands. -/
theorem gfMulBits_xor (n m : Nat) (x y : Byte) : gfMulBits n m (x ^^^ y) = gfMulBits n m x ^^^ gfMulBits n m y := by
  induction n generalizing m x y with
  | zero => simp [gfMulBits]
  | succ n ih =>
    simp only [gfMulBits, xtime_xor, ih]
    split
    · ac_rfl
    · simp

theorem gfMul_xor (m x y : Byte) : gfMul m (x ^^^ y) = gfMul m x ^^^ gfMul m y := gfMulBits_xor 8 m.toNat x y

/-! ## The generator of the S-box (R134) -/

/-- The affine map that undoes `affineMap`. -/
def invAffineMap (z : Byte) : Byte := z.rotateLeft 1 ^^^ z.rotateLeft 3 ^^^ z.rotateLeft 6 ^^^ 0x05#8

theorem affineMap_invAffineMap (z : Byte) : affineMap (invAffineMap z) = z := by revert z; decide

/-- The byte whose affine image is `SBOX[b]` is the inverse of `b` in the field. -/
theorem gfMul_invAffineMap_sbox {b : Byte} (h : b ≠ 0x00#8) : gfMul b (invAffineMap (sbox b)) = 0x01#8 := by
  revert b; decide

/-! ## The obligations -/

/-- Settles O33: the constant products are the sums of doublings that the bits of the constant select, and doubling is
additive. -/
theorem constantProductsAreLinear : Obligations.ConstantProductsAreLinear := by
  unfold Obligations.ConstantProductsAreLinear
  exact ⟨fun x => ⟨(gfMul_2 x).symm, (gfMul_2 x).symm, (gfMul_3 x).symm, (gfMul_9 x).symm, (gfMul_11 x).symm,
    (gfMul_13 x).symm, (gfMul_14 x).symm⟩, gfMul_xor⟩

/-- Settles O31: undoing the affine map on an entry of the table gives the inverse of its index. -/
theorem sboxEqualsItsGenerator : Obligations.SboxEqualsItsGenerator := by
  unfold Obligations.SboxEqualsItsGenerator
  refine fun b => ⟨invAffineMap (sbox b), ?zero, gfMul_invAffineMap_sbox, (affineMap_invAffineMap (sbox b)).symm⟩
  case zero => rintro rfl; decide

/-- Settles O32: the ten entries of the table. -/
theorem rconIsPowersOfTwo : Obligations.RconIsPowersOfTwo := by
  unfold Obligations.RconIsPowersOfTwo
  decide

/-- Settles O39: Cipher is evaluated on the block and the key, and InvCipher undoes it (R208). -/
theorem cipherOnFipsVector : Obligations.CipherOnFipsVector := by
  unfold Obligations.CipherOnFipsVector
  intro input key output
  have encrypts : cipher input key = output := by decide +kernel
  exact ⟨encrypts, encrypts ▸ invCipher_cipher input key⟩

end Sys2Proof.Machine

/-! PROOFS. What a step runs. Settles the start of an operation and its end (44_commands.md R230 to R236), which command or micro-op a
step runs (30_encoding.md R102, R110; 43_cipher.md R223), and that an instruction placed at a state is the next one run (assumption
log 3). -/

namespace Sys2Proof.Machine

/-! ## Commands -/

/-- A byte that decodes to an instruction runs it. -/
theorem writeCommand_of_decodeCommand {v : Byte} {i : Instr} (h : decodeCommand v = .ok i) (s : State) :
    writeCommand v s = exec i s := by
  simp [writeCommand, h]

/-- A command accepted with every buffer present starts its operation. -/
theorem accept_commandEffect_present (op : OpSel) {s : State} (idle : s.busy = false) :
    accept (commandEffect op true true true) s = start op (clearReport s) := by
  rw [accept_idle _ idle, commandEffect_present op rfl]

/-- An operation that starts is at LOADS. -/
theorem fetchUop_start (op : OpSel) (s : State) : fetchUop (start op s) = 0x10#8 := by cases op <;> rfl

/-! ## Micro-ops -/

/-- While BUSY = 1 the core runs what the word at UPC decodes to. -/
theorem microStep_of_decodeUop {s : State} {i : Instr} (busy : s.busy = true)
    (h : decodeUop (uopAt s.hidOpsel s.hidUpc) = .ok i) : microStep s = exec i (advance s) := by
  rw [decodeUop_uopAt, Except.ok.injEq] at h
  rw [microStep_busy busy, h]

theorem microStep_idle {s : State} (idle : s.busy = false) : microStep s = .next s := by simp [microStep, idle]

/-! ## Placing a word (assumption log 3) -/

/-- Searching a micro-program for a word finds a place that holds it, if there is one. -/
theorem indexIn_cases (op : OpSel) (w : Byte) :
    (∃ n, indexIn op w = some n ∧ uopAt op n = w) ∨ (indexIn op w = none ∧ ∀ n, uopAt op n ≠ w) := by
  cases h : indexIn op w with
  | some n => exact .inl ⟨n, rfl, by simpa using List.find?_some h⟩
  | none => exact .inr ⟨rfl, fun n => by simpa using List.find?_eq_none.mp h n (List.mem_finRange n)⟩

/-- A word is located at a place that holds it, if there is one in either micro-program. -/
theorem locate_cases (w : Byte) :
    (∃ op n, locate w = some (op, n) ∧ uopAt op n = w) ∨ (locate w = none ∧ ∀ op n, uopAt op n ≠ w) := by
  unfold locate
  obtain ⟨n, e, holds⟩ | ⟨e, notEnc⟩ := indexIn_cases .enc w
  · exact .inl ⟨.enc, n, by rw [e], holds⟩
  · obtain ⟨n, e', holds⟩ | ⟨e', notDec⟩ := indexIn_cases .dec w
    · exact .inl ⟨.dec, n, by rw [e, e']; rfl, holds⟩
    · refine .inr ⟨by rw [e, e']; rfl, fun op => ?_⟩
      cases op
      · exact notEnc
      · exact notDec

/-- No micro-program holds the byte of a command. -/
theorem uopAt_ne_command {i : Instr} (h : i.isCommand = true) (op : OpSel) (n : UopIndex) : uopAt op n ≠ encodeByte i := by
  intro e
  have uop := decodeCommand_of_decodeUop (decodeUop_uopAt op n)
  rw [e, decodeCommand_encodeByte h] at uop
  cases uop

/-- The two micro-programs together use every micro-op. -/
theorem exists_mem_uops {i : Instr} (wf : i.wellFormed = true) (h : i.isCommand = false) : ∃ op, i ∈ uops op := by
  cases i with
  | encrypt => cases h
  | decrypt => cases h
  | kexp k => exact ⟨.enc, by clear h; revert k; decide⟩
  | ark k => exact ⟨.enc, by clear h; revert k; decide⟩
  | isb => exact ⟨.dec, by decide⟩
  | isr => exact ⟨.dec, by decide⟩
  | imc => exact ⟨.dec, by decide⟩
  | _ => exact ⟨.enc, by decide⟩

/-- Some place of a micro-program holds the word of a micro-op. -/
theorem exists_uopAt {i : Instr} (wf : i.wellFormed = true) (h : i.isCommand = false) :
    ∃ op n, uopAt op n = encodeByte i := by
  obtain ⟨op, mem⟩ := exists_mem_uops wf h
  obtain ⟨n, hn, rfl⟩ := List.getElem_of_mem mem
  exact ⟨op, ⟨n, by rwa [uops_length] at hn⟩, uopAt_eq_encodeByte op _⟩

/-- Placing the bits of a byte places the byte. -/
theorem withFetchWord_toNat (s : State) (b : Byte) : s.withFetchWord 8 b.toNat = placeByte b s := by
  rw [State.withFetchWord, firstByte, Nat.mod_eq_of_lt b.isLt, BitVec.ofNat_toNat, BitVec.setWidth_eq]

/-- A placed command is the host's next write, so the next step runs it. -/
theorem step_placeByte_command {i : Instr} (h : i.isCommand = true) (s : State) :
    step (placeByte (encodeByte i) s) = exec i s := by
  obtain ⟨op, n, -, holds⟩ | ⟨e, -⟩ := locate_cases (encodeByte i)
  · exact absurd holds (uopAt_ne_command h op n)
  · rw [placeByte, e]
    exact (step_write_cmd rfl rfl).trans (writeCommand_of_decodeCommand (decodeCommand_encodeByte h) s)

/-- A placed micro-op stands where the sequencer is, so the next step runs it. -/
theorem step_placeByte_uop {i : Instr} (wf : i.wellFormed = true) (h : i.isCommand = false) (s : State) :
    ∃ op n, uopAt op n = encodeByte i ∧
      step (placeByte (encodeByte i) s) = exec i (advance { s with busy := true, hidOpsel := op, hidUpc := n }) := by
  obtain ⟨op, n, e, holds⟩ | ⟨-, nowhere⟩ := locate_cases (encodeByte i)
  · refine ⟨op, n, holds, ?_⟩
    rw [placeByte, e]
    have decodes : decodeUop (uopAt op n) = .ok i := holds ▸ decodeUop_encodeByte wf h
    exact microStep_of_decodeUop (s := { s with busy := true, hidOpsel := op, hidUpc := n }) rfl decodes
  · obtain ⟨op, n, holds⟩ := exists_uopAt wf h
    exact absurd holds (nowhere op n)

/-! ## The obligations -/

/-- Settles O42: a command's byte stands in no micro-program and is placed as a write to CMD, a micro-op's word stands in one
and is placed there. -/
theorem placedWordIsRunNext : Obligations.PlacedWordIsRunNext := by
  unfold Obligations.PlacedWordIsRunNext
  intro s i wf
  rw [withFetchWord_toNat]
  exact ⟨fun h => step_placeByte_command h s, fun h => step_placeByte_uop wf h s⟩

/-- Settles O6: the words of the two programs, read out one place after the other. -/
theorem microProgramListings : Obligations.MicroProgramListings := by
  unfold Obligations.MicroProgramListings
  decide

/-- Settles O15: the accepted command is `start` on the cleared report. -/
theorem commandStartsOperation : Obligations.CommandStartsOperation := by
  unfold Obligations.CommandStartsOperation
  intro s idle
  rw [exec_encrypt, exec_decrypt, accept_commandEffect_present .enc idle, accept_commandEffect_present .dec idle]
  exact ⟨⟨_, rfl, rfl⟩, ⟨_, rfl, rfl⟩⟩

/-- Settles O16: `start` sets UPC to 0, where both micro-programs hold LOADS. -/
theorem operationBeginsAtFirstMicroOp : Obligations.OperationBeginsAtFirstMicroOp := by
  unfold Obligations.OperationBeginsAtFirstMicroOp
  intro s t idle
  rw [exec_encrypt, exec_decrypt, accept_commandEffect_present .enc idle, accept_commandEffect_present .dec idle]
  constructor
  · rintro ⟨⟩; exact ⟨rfl, fetchUop_start .enc _⟩
  · rintro ⟨⟩; exact ⟨rfl, fetchUop_start .dec _⟩

/-- Settles O19: acceptance looks at BUSY before anything else. -/
theorem commandWhileBusyIgnored : Obligations.CommandWhileBusyIgnored := by
  unfold Obligations.CommandWhileBusyIgnored
  refine ⟨fun s rest v h busy => ?step, fun s i k o busy => ?meanings⟩
  case step => rw [step_write_cmd h rfl, writeCommand_eq, accept_busy (s := { s with turns := rest }) _ busy]
  case meanings => rw [exec_encrypt, exec_decrypt, accept_busy _ busy, accept_busy _ busy]; exact ⟨rfl, rfl⟩

/-- Settles O21: while BUSY = 1 the completion step is enabled, and its result is that of the selected operation. -/
theorem completionWritesResult : Obligations.CompletionWritesResult := by
  unfold Obligations.CompletionWritesResult
  intro s rest h busy
  refine ⟨unspecifyHidden (setDone { s with turns := rest, dout := operationResult s }), ?step, ?enc, ?dec, ?frame⟩
  case step =>
    rw [step_of_turns h]
    exact congrArg Host.Outcome.next (completeWith_busy (s := { s with turns := rest }) _ busy)
  case enc => intro enc; simp [operationResult, enc]
  case dec => intro dec; simp [operationResult, dec]
  case frame => simp

/-- Settles O22: the completion step is not enabled while BUSY = 0, and the sequencer does not run. -/
theorem idleCoreChangesNothing : Obligations.IdleCoreChangesNothing := by
  unfold Obligations.IdleCoreChangesNothing
  intro s rest idle
  refine ⟨congrArg Host.Outcome.next (completeWith_idle _ idle), fun h => ?completion, fun h => ?microOp, fun h => ?noTurn⟩
  case completion =>
    rw [step_of_turns h]
    exact congrArg Host.Outcome.next (completeWith_idle (s := { s with turns := rest }) _ idle)
  case microOp =>
    rw [step_of_turns h]
    exact microStep_idle (s := { s with turns := rest }) idle
  case noTurn => exact step_of_runEnded ⟨h, idle⟩

/-- Settles O40: the step of a write to CMD is the command write, which runs what the byte decodes to. -/
theorem stepRunsDecodedCommand : Obligations.StepRunsDecodedCommand := by
  unfold Obligations.StepRunsDecodedCommand
  intro s rest v i h decodes
  rw [step_write_cmd h rfl, writeCommand_of_decodeCommand decodes]

/-- Settles O41: both steps are the core's micro-op turn, which runs on the state `advance` gives. -/
theorem stepRunsDecodedMicroOp : Obligations.StepRunsDecodedMicroOp := by
  unfold Obligations.StepRunsDecodedMicroOp
  intro s i busy decodes
  refine ⟨fun rest h => ?turn, fun h => ?noTurn⟩
  case turn =>
    rw [step_of_turns h]
    exact microStep_of_decodeUop (s := { s with turns := rest }) busy decodes
  case noTurn =>
    rw [step_of_noTurn h]
    exact microStep_of_decodeUop busy decodes

end Sys2Proof.Machine
